-- ==== Sys2Proof/Word.lean ====
section
/-! DEFINITION. The word types of the CDF cartridge core (00_scope.md R11). -/

namespace Sys2Proof

/-- One byte, the spec's `u8`. -/
abbrev Byte := BitVec 8

/-- The spec's `u16`: a host address or one of the two operand latches. -/
abbrev Word16 := BitVec 16

/-- The spec's `u32`. -/
abbrev Word32 := BitVec 32

/-- The spec's `i64`: a count of host cycles, read as a signed number with `BitVec.toInt`. -/
abbrev Cycles := BitVec 64

/-- A window offset `a = addr & 0x0FFF`, the 12 significant bits of a host address (R14, R90). -/
abbrev Offset := BitVec 12

end Sys2Proof
end

