-- ==== Sys2Proof/Config.lean ====
section
/-! DEFINITION. The fixed sizes of 00_scope.md R6 and the free values of R12's `draw(N)`. -/

namespace Sys2Proof.Config

/-- Size of a program bank and of the host window (R6 `BANK_SIZE`, `WINDOW_SIZE`). -/
abbrev bankSize : Nat := 4096

/-- Size of the ROM image (R6 `IMAGE_SIZE`). -/
abbrev imageSize : Nat := 32768

/-- Size of the driver template and of driver RAM (R6 `DRIVER_SIZE`); also where display RAM begins in
cartridge RAM (R6 `DSRAM`). -/
abbrev driverSize : Nat := 2048

/-- Image offset of program ROM, bank 0 (R6 `PROGRAM_SIZE` row). -/
abbrev programBase : Nat := 4096

/-- Size of program ROM, seven banks (R6 `PROGRAM_SIZE`). -/
abbrev programSize : Nat := 28672

/-- Size of cartridge RAM (R6 `RAM_SIZE`). -/
abbrev ramSize : Nat := 8192

/-- Size of display RAM (R6 `DISPLAY_SIZE`, 90_conflicts.md C2). -/
abbrev displaySize : Nat := 6144

/-- RAM offset of the pointer table (R6 `DSxPTR`). -/
abbrev ptrTable : Nat := 0x06E0

/-- RAM offset of the increment table (R6 `DSxINC`). -/
abbrev incTable : Nat := 0x0768

/-- RAM offset of the waveform table (R6 `WAVEFORM`). -/
abbrev waveformTable : Nat := 0x07F0

/-- Stream index of COMMSTREAM (R6). -/
abbrev commStream : Fin 34 := 32

/-- Stream index of JUMPSTREAM (R6). -/
abbrev jumpStream : Fin 34 := 33

/-- The bank selected by reset (R6 `STARTUP_BANK`). -/
abbrev startupBank : Fin 7 := 6

/-- Waveform size after reset (R6 `WAVE_SIZE_RESET`). -/
abbrev waveSizeReset : Byte := 27

/-- ARM address of cartridge RAM (R6 `ARM_RAM_BASE`). -/
abbrev armRamBase : Nat := 0x40000000

/-- First ARM address past the image (R6 `ARM_ROM_LIMIT`). -/
abbrev armRomLimit : Nat := 0x8000

/-- The amount DSWRITE and the fast-jump continuation add to a pointer: one byte of index (R173, R202). -/
abbrev byteStep : Word32 := 0x00100000

/-- FREE VALUE. R12 `draw(8)`: the byte that operation number `op` meets at its open place number `site`.
Places 0 and 1 are the look-ahead bytes past the image (R185, D9); places 2, 3, 4 are the mixer terms of voices
0, 1, 2 (R150, D10, D11). Nothing is known of it (logs 17, 18). -/
opaque freeByte (op site : Nat) : Byte

/-- FREE VALUE. The baseline after a `CyclesReset` whose difference does not fit an `i64` (R276 states no
reduction); `site` 0 is `audio_cycles`, 1 is `arm_cycles` (log 19). -/
opaque freeCycles (op site : Nat) : Cycles

/-- FREE VALUE. Image byte `k` past the end of a short file, fixed at construction (R270, D20; log 25). -/
opaque imageFill (k : Nat) : Byte

end Sys2Proof.Config
end

