-- ==== Sys2Proof/Syntax.lean ====
section
/-! DEFINITION. The operations of the device, one constructor per row of spec/opcode_table.json (30_encoding.md
R90 to R105). Operands are the fields the row's format gives it; `a` is the window offset of a Peek. -/

namespace Sys2Proof

inductive Instr where
  /-- JMP.CONT: fast-jump continuation (R173). -/
  | jmpCont (a : Offset)
  /-- BANK0.R: an unlocked Peek of 0xFF5 that reaches step 7 (R91, R161). -/
  | bank0R
  /-- BANK1.R: an unlocked Peek of 0xFF6 that reaches step 7 (R91, R161). -/
  | bank1R
  /-- BANK2.R: an unlocked Peek of 0xFF7 that reaches step 7 (R91, R161). -/
  | bank2R
  /-- BANK3.R: an unlocked Peek of 0xFF8 that reaches step 7 (R91, R161). -/
  | bank3R
  /-- BANK4.R: an unlocked Peek of 0xFF9 that reaches step 7 (R91, R161). -/
  | bank4R
  /-- BANK5.R: an unlocked Peek of 0xFFA that reaches step 7 (R91, R161). -/
  | bank5R
  /-- BANK6.R: an unlocked Peek of 0xFFB that reaches step 7 (R91, R161). -/
  | bank6R
  /-- ROMREAD: a plain read (R183), and every Peek while bank-locked (R171). -/
  | romread (a : Offset)
  /-- DSWRITE: Poke of 0xFF0 (R202). -/
  | dswrite (val : Byte)
  /-- DSPTR: Poke of 0xFF1 (R203). -/
  | dsptr (val : Byte)
  /-- SETMODE: Poke of 0xFF2 (R204). -/
  | setmode (val : Byte)
  /-- CALLFN: Poke of 0xFF3, decoded further as CALLFN_ARG (R205). -/
  | callfn (val : Byte) (now : Cycles)
  /-- BANK0.W: a Poke of 0xFF5, data ignored (R92, R162). -/
  | bank0W (val : Byte)
  /-- BANK1.W: a Poke of 0xFF6, data ignored (R92, R162). -/
  | bank1W (val : Byte)
  /-- BANK2.W: a Poke of 0xFF7, data ignored (R92, R162). -/
  | bank2W (val : Byte)
  /-- BANK3.W: a Poke of 0xFF8, data ignored (R92, R162). -/
  | bank3W (val : Byte)
  /-- BANK4.W: a Poke of 0xFF9, data ignored (R92, R162). -/
  | bank4W (val : Byte)
  /-- BANK5.W: a Poke of 0xFFA, data ignored (R92, R162). -/
  | bank5W (val : Byte)
  /-- BANK6.W: a Poke of 0xFFB, data ignored (R92, R162). -/
  | bank6W (val : Byte)
  /-- WRITE_IGNORED: Poke of any offset that is no port (R207). -/
  | writeIgnored (a : Offset) (val : Byte)
  /-- JMP.FAST: Peek of the first byte of `4C 00 00` (R174). -/
  | jmpFast (a : Offset)
  /-- LDA.IMM: Peek of an `A9` byte (R181). -/
  | ldaImm (a : Offset)
  /-- DS0: an intercepted `LDA #` operand 0 reads stream 0 (R95, R177). -/
  | ds0
  /-- DS1: an intercepted `LDA #` operand 1 reads stream 1 (R95, R177). -/
  | ds1
  /-- DS2: an intercepted `LDA #` operand 2 reads stream 2 (R95, R177). -/
  | ds2
  /-- DS3: an intercepted `LDA #` operand 3 reads stream 3 (R95, R177). -/
  | ds3
  /-- DS4: an intercepted `LDA #` operand 4 reads stream 4 (R95, R177). -/
  | ds4
  /-- DS5: an intercepted `LDA #` operand 5 reads stream 5 (R95, R177). -/
  | ds5
  /-- DS6: an intercepted `LDA #` operand 6 reads stream 6 (R95, R177). -/
  | ds6
  /-- DS7: an intercepted `LDA #` operand 7 reads stream 7 (R95, R177). -/
  | ds7
  /-- DS8: an intercepted `LDA #` operand 8 reads stream 8 (R95, R177). -/
  | ds8
  /-- DS9: an intercepted `LDA #` operand 9 reads stream 9 (R95, R177). -/
  | ds9
  /-- DS10: an intercepted `LDA #` operand 10 reads stream 10 (R95, R177). -/
  | ds10
  /-- DS11: an intercepted `LDA #` operand 11 reads stream 11 (R95, R177). -/
  | ds11
  /-- DS12: an intercepted `LDA #` operand 12 reads stream 12 (R95, R177). -/
  | ds12
  /-- DS13: an intercepted `LDA #` operand 13 reads stream 13 (R95, R177). -/
  | ds13
  /-- DS14: an intercepted `LDA #` operand 14 reads stream 14 (R95, R177). -/
  | ds14
  /-- DS15: an intercepted `LDA #` operand 15 reads stream 15 (R95, R177). -/
  | ds15
  /-- DS16: an intercepted `LDA #` operand 16 reads stream 16 (R95, R177). -/
  | ds16
  /-- DS17: an intercepted `LDA #` operand 17 reads stream 17 (R95, R177). -/
  | ds17
  /-- DS18: an intercepted `LDA #` operand 18 reads stream 18 (R95, R177). -/
  | ds18
  /-- DS19: an intercepted `LDA #` operand 19 reads stream 19 (R95, R177). -/
  | ds19
  /-- DS20: an intercepted `LDA #` operand 20 reads stream 20 (R95, R177). -/
  | ds20
  /-- DS21: an intercepted `LDA #` operand 21 reads stream 21 (R95, R177). -/
  | ds21
  /-- DS22: an intercepted `LDA #` operand 22 reads stream 22 (R95, R177). -/
  | ds22
  /-- DS23: an intercepted `LDA #` operand 23 reads stream 23 (R95, R177). -/
  | ds23
  /-- DS24: an intercepted `LDA #` operand 24 reads stream 24 (R95, R177). -/
  | ds24
  /-- DS25: an intercepted `LDA #` operand 25 reads stream 25 (R95, R177). -/
  | ds25
  /-- DS26: an intercepted `LDA #` operand 26 reads stream 26 (R95, R177). -/
  | ds26
  /-- DS27: an intercepted `LDA #` operand 27 reads stream 27 (R95, R177). -/
  | ds27
  /-- DS28: an intercepted `LDA #` operand 28 reads stream 28 (R95, R177). -/
  | ds28
  /-- DS29: an intercepted `LDA #` operand 29 reads stream 29 (R95, R177). -/
  | ds29
  /-- DS30: an intercepted `LDA #` operand 30 reads stream 30 (R95, R177). -/
  | ds30
  /-- DS31: an intercepted `LDA #` operand 31 reads stream 31 (R95, R177). -/
  | ds31
  /-- COMMSTREAM: an intercepted `LDA #0x20` reads stream 32 (R177). -/
  | commstream
  /-- JUMPSTREAM: an intercepted `LDA #0x21` reads stream 33 (R177). -/
  | jumpstream
  /-- AMPLITUDE: an intercepted `LDA #0x22` updates the audio and returns a sample (R177, R145). -/
  | amplitude (now : Cycles)
  /-- PASS: the operand byte at the LDA latch is above 0x22 and is not intercepted (R176). -/
  | pass (rom : Byte) (a : Offset)
  /-- CALLFN.RUN254: Poke of 254 to 0xFF3 (R220). -/
  | callfnRun254 (now : Cycles)
  /-- CALLFN.RUN255: Poke of 255 to 0xFF3 (R220, R221). -/
  | callfnRun255 (now : Cycles)
  /-- CALLFN.NOP: Poke of 0..253 to 0xFF3 (R220). -/
  | callfnNop (val : Byte)
  /-- SETNOTE: callback 0 (R227). -/
  | setnote (v f : Word32)
  /-- RESETWAVE: callback 1 (R228). -/
  | resetwave (v : Word32)
  /-- GETWAVEPTR: callback 2 (R229). -/
  | getwaveptr (v : Word32)
  /-- SETWAVESIZE: callback 3 (R230). -/
  | setwavesize (v size : Word32)
  /-- RESET: `Reset(now)` (R271). -/
  | reset (now : Cycles)
  /-- CYCLESRESET: `CyclesReset(offset)` (R276). DESIGN CHOICE: the offset is an i64 (log 29). -/
  | cyclesreset (offset : Cycles)
  /-- SETBANKLOCK: `SetBankLock(b)` (R252). -/
  | setbanklock (b : Bool)
  /-- PATCH: `Patch(addr, val)` (R251). -/
  | patch (addr : Word16) (val : Byte)
  /-- GETBANK: `GetBank()` (R163). -/
  | getbank
  /-- ARMRAMREAD: the ARM reads a RAM byte (R225). -/
  | armramread (x : Word32)
  /-- ARMROMREAD: the ARM reads an image byte (R225). -/
  | armromread (x : Word32)
  /-- ARMRAMWRITE: the ARM writes a RAM byte (R225). -/
  | armramwrite (x : Word32) (val : Byte)
deriving DecidableEq, Repr

end Sys2Proof
end

