-- ==== Sys2Proof/WellFormed.lean ====
section
/-! DEFINITION. Which operand values an operation admits: a row with a default pattern stands for the values
that no earlier row of its format takes (30_encoding.md R105). -/

namespace Sys2Proof

/-- The bank hotspot offsets 0xFF5..0xFFB (R91, R93). -/
abbrev isHotspot (a : Offset) : Bool := decide (0xFF5 ≤ a.toNat) && decide (a.toNat ≤ 0xFFB)

/-- The offsets at which a Poke acts: the four write ports and the hotspots (R92). -/
abbrev isWritePort (a : Offset) : Bool :=
  (decide (0xFF0 ≤ a.toNat) && decide (a.toNat ≤ 0xFF3)) ||
    isHotspot a

namespace Instr

/-- WRITE_IGNORED is no write port (R207), PASS is an operand above 0x22 (R95), CALLFN.NOP is neither 254 nor
255 (R97); every other operand takes every value. -/
def wellFormed : Instr → Bool
  | .writeIgnored a _ => !isWritePort a
  | .pass rom _ => decide (0x22 < rom)
  | .callfnNop val => decide (val ≠ 254) && decide (val ≠ 255)
  | _ => true

end Instr

end Sys2Proof
end

