-- ==== Sys2Proof/Decode.lean ====
section
/-! DEFINITION. The decoder of 30_encoding.md, total on any bytes, and the encoder beside it.

Each decoder of the device is a PORT: the six formats of R90, the pseudo-format ENV_OP of R105, and two ports for
the rows that a state match selects instead of a bit pattern (JMP.CONT, and ROMREAD while bank-locked). A packet is
a port with the bytes presented to it: first the decoded quantity of the row's format, then the operands that the
table gives no bits (log 21). Multi-byte operands are little-endian. -/

namespace Sys2Proof

/-- The decoder a packet is presented to (R90, R105). -/
inductive Port where
  /-- HOST_READ: the window offset of a Peek that no earlier step of the tree took. -/
  | hostRead
  /-- HOST_READ, row JMP.CONT: selected by `fast_jump_active > 0 and a == jmp_operand_addr` (R173). -/
  | jumpContinuation
  /-- HOST_READ while `bank_locked`: every Peek is ROMREAD (R171). -/
  | lockedRead
  /-- HOST_WRITE: offset and data of a Poke. -/
  | hostWrite
  /-- FF_OPCODE: the ROM byte under a Peek and the two after it. -/
  | ffOpcode
  /-- FF_OPERAND: the ROM byte under a Peek at the LDA latch. -/
  | ffOperand
  /-- CALLFN_ARG: the data of a Poke to 0xFF3. -/
  | callfnArg
  /-- ARM_CB: a callback of the ARM. -/
  | armCallback
  /-- ENV_OP: an operation of the host environment or a memory access of the ARM, by the table's serial number. -/
  | envOp
deriving DecidableEq, Repr

/-- Why bytes are no operation of a port. -/
inductive DecodeError where
  /-- Fewer bytes than the port's packets have. -/
  | truncated
  /-- FF_OPCODE bytes that are neither `4C 00 00` nor `A9` (R94). -/
  | notAnOpcodePattern
  /-- A callback code above 3 (R101, D14). -/
  | unknownCallbackCode (code : Word32)
  /-- A serial number the table does not have. -/
  | unknownEnvOp (serial : Byte)
  /-- A byte that is neither 0 nor 1 where SETBANKLOCK takes a bool. -/
  | notABool (b : Byte)
deriving DecidableEq, Repr

/-- Bytes presented to a port. -/
structure Packet where
  port : Port
  bytes : List Byte
deriving DecidableEq, Repr

/-- How many bytes a port's packets have. -/
def Port.packetLength : Port → Nat
  | .hostRead => 2
  | .jumpContinuation => 2
  | .lockedRead => 2
  | .hostWrite => 11
  | .ffOpcode => 5
  | .ffOperand => 11
  | .callfnArg => 9
  | .armCallback => 12
  | .envOp => 9

/-- The number a little-endian byte string stands for (R65). -/
def leNat : List Byte → Nat
  | [] => 0
  | b :: t => b.toNat + 256 * leNat t

/-- The `n` low bytes of a number, least significant first (R65). -/
def bytesOf : Nat → Nat → List Byte
  | 0, _ => []
  | n + 1, v => BitVec.ofNat 8 v :: bytesOf n (v / 256)

/-- The little-endian field of `len` bytes at position `at_`, as `w` bits: higher bits are dropped. -/
def field (bs : List Byte) (at_ len w : Nat) : BitVec w :=
  BitVec.ofNat w (leNat ((bs.drop at_).take len))

/-- One byte of a packet. -/
def byteAt (bs : List Byte) (k : Nat) : Byte := bs.getD k 0

/-- The bank of a hotspot offset, `a - 0xFF5` (R93). -/
def hotspotBank? (a : Offset) : Option (Fin 7) :=
  if a = 0xFF5 then some 0
  else if a = 0xFF6 then some 1
  else if a = 0xFF7 then some 2
  else if a = 0xFF8 then some 3
  else if a = 0xFF9 then some 4
  else if a = 0xFFA then some 5
  else if a = 0xFFB then some 6
  else none

/-- The row that selects bank `n` by a read: BANK0.R .. BANK6.R (R91). -/
def bankReadRow (n : Fin 7) : Instr :=
  match n with
  | 0 => .bank0R
  | 1 => .bank1R
  | 2 => .bank2R
  | 3 => .bank3R
  | 4 => .bank4R
  | 5 => .bank5R
  | ⟨_ + 6, _⟩ => .bank6R

/-- The row that selects bank `n` by a write: BANK0.W .. BANK6.W (R92). -/
def bankWriteRow (n : Fin 7) (val : Byte) : Instr :=
  match n with
  | 0 => .bank0W val
  | 1 => .bank1W val
  | 2 => .bank2W val
  | 3 => .bank3W val
  | 4 => .bank4W val
  | 5 => .bank5W val
  | ⟨_ + 6, _⟩ => .bank6W val

/-- HOST_READ rows by offset (R91). -/
def decodeHostRead (a : Offset) : Instr :=
  match hotspotBank? a with
  | some n => bankReadRow n
  | none => .romread a

/-- HOST_WRITE rows by offset (R92). -/
def decodeHostWrite (a : Offset) (val : Byte) (now : Cycles) : Instr :=
  if a = 0xFF0 then .dswrite val
  else if a = 0xFF1 then .dsptr val
  else if a = 0xFF2 then .setmode val
  else if a = 0xFF3 then .callfn val now
  else
    match hotspotBank? a with
    | some n => bankWriteRow n val
    | none => .writeIgnored a val

/-- FF_OPCODE rows by priority: the jump pattern, then `A9` (R94, R105). -/
def decodeOpcode (rom next1 next2 : Byte) (a : Offset) : Except DecodeError Instr :=
  if rom = 0x4C ∧ next1 = 0 ∧ next2 = 0 then .ok (.jmpFast a)
  else if rom = 0xA9 then .ok (.ldaImm a)
  else .error .notAnOpcodePattern

/-- The row that reads stream `i`: DS0 .. DS31, COMMSTREAM, JUMPSTREAM (R95). -/
def streamRead (i : Fin 34) : Instr :=
  match i with
  | 0 => .ds0
  | 1 => .ds1
  | 2 => .ds2
  | 3 => .ds3
  | 4 => .ds4
  | 5 => .ds5
  | 6 => .ds6
  | 7 => .ds7
  | 8 => .ds8
  | 9 => .ds9
  | 10 => .ds10
  | 11 => .ds11
  | 12 => .ds12
  | 13 => .ds13
  | 14 => .ds14
  | 15 => .ds15
  | 16 => .ds16
  | 17 => .ds17
  | 18 => .ds18
  | 19 => .ds19
  | 20 => .ds20
  | 21 => .ds21
  | 22 => .ds22
  | 23 => .ds23
  | 24 => .ds24
  | 25 => .ds25
  | 26 => .ds26
  | 27 => .ds27
  | 28 => .ds28
  | 29 => .ds29
  | 30 => .ds30
  | 31 => .ds31
  | 32 => .commstream
  | ⟨_ + 33, _⟩ => .jumpstream

/-- FF_OPERAND rows by selector, which is not masked (R95). -/
def decodeOperand (rom : Byte) (a : Offset) (now : Cycles) : Instr :=
  if h : rom.toNat < 34 then streamRead ⟨rom.toNat, h⟩
  else if rom = 0x22 then .amplitude now
  else .pass rom a

/-- CALLFN_ARG rows (R97). -/
def decodeCallfnArg (val : Byte) (now : Cycles) : Instr :=
  if val = 254 then .callfnRun254 now
  else if val = 255 then .callfnRun255 now
  else .callfnNop val

/-- ARM_CB rows (R98). -/
def decodeCallback (code a1 a2 : Word32) : Except DecodeError Instr :=
  if code = 0 then .ok (.setnote a1 a2)
  else if code = 1 then .ok (.resetwave a1)
  else if code = 2 then .ok (.getwaveptr a1)
  else if code = 3 then .ok (.setwavesize a1 a2)
  else .error (.unknownCallbackCode code)

/-- The bool operand of SETBANKLOCK. -/
def decodeBool (b : Byte) : Except DecodeError Instr :=
  if b = 0 then .ok (.setbanklock false)
  else if b = 1 then .ok (.setbanklock true)
  else .error (.notABool b)

/-- ENV_OP rows by serial number (R105); the operands follow the serial byte. -/
def decodeEnvOp (serial : Byte) (bs : List Byte) : Except DecodeError Instr :=
  if serial = 0 then .ok (.reset (field bs 1 8 64))
  else if serial = 1 then .ok (.cyclesreset (field bs 1 8 64))
  else if serial = 2 then decodeBool (byteAt bs 1)
  else if serial = 3 then .ok (.patch (field bs 1 2 16) (byteAt bs 3))
  else if serial = 4 then .ok .getbank
  else if serial = 5 then .ok (.armramread (field bs 1 4 32))
  else if serial = 6 then .ok (.armromread (field bs 1 4 32))
  else if serial = 7 then .ok (.armramwrite (field bs 1 4 32) (byteAt bs 5))
  else .error (.unknownEnvOp serial)

/-- The operation a port finds in enough bytes. -/
def decodeAt (p : Port) (bs : List Byte) : Except DecodeError Instr :=
  match p with
  | .hostRead => .ok (decodeHostRead (field bs 0 2 12))
  | .jumpContinuation => .ok (.jmpCont (field bs 0 2 12))
  | .lockedRead => .ok (.romread (field bs 0 2 12))
  | .hostWrite => .ok (decodeHostWrite (field bs 0 2 12) (byteAt bs 2) (field bs 3 8 64))
  | .ffOpcode => decodeOpcode (byteAt bs 0) (byteAt bs 1) (byteAt bs 2) (field bs 3 2 12)
  | .ffOperand => .ok (decodeOperand (byteAt bs 0) (field bs 1 2 12) (field bs 3 8 64))
  | .callfnArg => .ok (decodeCallfnArg (byteAt bs 0) (field bs 1 8 64))
  | .armCallback => decodeCallback (field bs 0 4 32) (field bs 4 4 32) (field bs 8 4 32)
  | .envOp => decodeEnvOp (byteAt bs 0) bs

/-- The decoder, total on any bytes; bytes past a port's packet length are not looked at. -/
def decode (p : Packet) : Except DecodeError Instr :=
  if p.bytes.length < p.port.packetLength then .error .truncated else decodeAt p.port p.bytes

/-! ### The encoder -/

/-- A Poke: offset (2 bytes, bits 15..12 not looked at), data, `now`. -/
def writePacket (addr : Nat) (val : Byte) (now : Cycles) : Packet :=
  ⟨.hostWrite, bytesOf 2 addr ++ val :: bytesOf 8 now.toNat⟩

/-- An FF_OPERAND packet: the selector, then the offset and `now` of the Peek. -/
def operandPacket (rom : Byte) (a : Offset) (now : Cycles) : Packet :=
  ⟨.ffOperand, rom :: (bytesOf 2 a.toNat ++ bytesOf 8 now.toNat)⟩

/-- An FF_OPCODE packet: three ROM bytes in image order, then the offset. -/
def opcodePacket (rom next1 next2 : Byte) (a : Offset) : Packet :=
  ⟨.ffOpcode, rom :: next1 :: next2 :: bytesOf 2 a.toNat⟩

/-- A callback: code, `a1`, `a2`. -/
def callbackPacket (code a1 a2 : Word32) : Packet :=
  ⟨.armCallback, bytesOf 4 code.toNat ++ (bytesOf 4 a1.toNat ++ bytesOf 4 a2.toNat)⟩

/-- An ENV_OP packet: the serial number, then eight bytes of operands. -/
def envPacket (serial : Byte) (operands : Nat) : Packet :=
  ⟨.envOp, serial :: bytesOf 8 operands⟩

/-- The packet of an operation, from the same tables; operand bits a row does not have are 0. A ROMREAD of a
hotspot offset exists only while bank-locked, so it is a packet of that port (R171). -/
def encode : Instr → Packet
  | .jmpCont a => ⟨.jumpContinuation, bytesOf 2 a.toNat⟩
  | .bank0R => ⟨.hostRead, bytesOf 2 0xFF5⟩
  | .bank1R => ⟨.hostRead, bytesOf 2 0xFF6⟩
  | .bank2R => ⟨.hostRead, bytesOf 2 0xFF7⟩
  | .bank3R => ⟨.hostRead, bytesOf 2 0xFF8⟩
  | .bank4R => ⟨.hostRead, bytesOf 2 0xFF9⟩
  | .bank5R => ⟨.hostRead, bytesOf 2 0xFFA⟩
  | .bank6R => ⟨.hostRead, bytesOf 2 0xFFB⟩
  | .romread a => ⟨if isHotspot a then .lockedRead else .hostRead, bytesOf 2 a.toNat⟩
  | .dswrite val => writePacket 0xFF0 val 0
  | .dsptr val => writePacket 0xFF1 val 0
  | .setmode val => writePacket 0xFF2 val 0
  | .callfn val now => writePacket 0xFF3 val now
  | .bank0W val => writePacket 0xFF5 val 0
  | .bank1W val => writePacket 0xFF6 val 0
  | .bank2W val => writePacket 0xFF7 val 0
  | .bank3W val => writePacket 0xFF8 val 0
  | .bank4W val => writePacket 0xFF9 val 0
  | .bank5W val => writePacket 0xFFA val 0
  | .bank6W val => writePacket 0xFFB val 0
  | .writeIgnored a val => writePacket a.toNat val 0
  | .jmpFast a => opcodePacket 0x4C 0x00 0x00 a
  | .ldaImm a => opcodePacket 0xA9 0x00 0x00 a
  | .ds0 => operandPacket 0x00 0 0
  | .ds1 => operandPacket 0x01 0 0
  | .ds2 => operandPacket 0x02 0 0
  | .ds3 => operandPacket 0x03 0 0
  | .ds4 => operandPacket 0x04 0 0
  | .ds5 => operandPacket 0x05 0 0
  | .ds6 => operandPacket 0x06 0 0
  | .ds7 => operandPacket 0x07 0 0
  | .ds8 => operandPacket 0x08 0 0
  | .ds9 => operandPacket 0x09 0 0
  | .ds10 => operandPacket 0x0A 0 0
  | .ds11 => operandPacket 0x0B 0 0
  | .ds12 => operandPacket 0x0C 0 0
  | .ds13 => operandPacket 0x0D 0 0
  | .ds14 => operandPacket 0x0E 0 0
  | .ds15 => operandPacket 0x0F 0 0
  | .ds16 => operandPacket 0x10 0 0
  | .ds17 => operandPacket 0x11 0 0
  | .ds18 => operandPacket 0x12 0 0
  | .ds19 => operandPacket 0x13 0 0
  | .ds20 => operandPacket 0x14 0 0
  | .ds21 => operandPacket 0x15 0 0
  | .ds22 => operandPacket 0x16 0 0
  | .ds23 => operandPacket 0x17 0 0
  | .ds24 => operandPacket 0x18 0 0
  | .ds25 => operandPacket 0x19 0 0
  | .ds26 => operandPacket 0x1A 0 0
  | .ds27 => operandPacket 0x1B 0 0
  | .ds28 => operandPacket 0x1C 0 0
  | .ds29 => operandPacket 0x1D 0 0
  | .ds30 => operandPacket 0x1E 0 0
  | .ds31 => operandPacket 0x1F 0 0
  | .commstream => operandPacket 0x20 0 0
  | .jumpstream => operandPacket 0x21 0 0
  | .amplitude now => operandPacket 0x22 0 now
  | .pass rom a => operandPacket rom a 0
  | .callfnRun254 now => ⟨.callfnArg, 0xFE :: bytesOf 8 now.toNat⟩
  | .callfnRun255 now => ⟨.callfnArg, 0xFF :: bytesOf 8 now.toNat⟩
  | .callfnNop val => ⟨.callfnArg, val :: bytesOf 8 0⟩
  | .setnote v f => callbackPacket 0 v f
  | .resetwave v => callbackPacket 1 v 0
  | .getwaveptr v => callbackPacket 2 v 0
  | .setwavesize v size => callbackPacket 3 v size
  | .reset now => envPacket 0 now.toNat
  | .cyclesreset offset => envPacket 1 offset.toNat
  | .setbanklock b => envPacket 2 (if b then 1 else 0)
  | .patch addr val => envPacket 3 (addr.toNat + 65536 * val.toNat)
  | .getbank => envPacket 4 0
  | .armramread x => envPacket 5 x.toNat
  | .armromread x => envPacket 6 x.toNat
  | .armramwrite x val => envPacket 7 (x.toNat + 4294967296 * val.toNat)

/-! ### The table's words -/

/-- The port whose rows a table word of `nbits` bits is looked up in, and its bytes in image or address order.
Several formats share a width: 8 bits are CALLFN_ARG for 254 and 255, FF_OPCODE for `A9`, FF_OPERAND else; 16 bits
are HOST_WRITE for the four write ports, HOST_READ else (log 21). The 24-bit word of FF_OPCODE holds `rom` in bits
23..16 (R105). -/
def tablePacket (nbits w : Nat) : Option Packet :=
  if nbits = 8 then
    if w % 256 = 0xFE ∨ w % 256 = 0xFF then some ⟨.callfnArg, bytesOf 1 w⟩
    else if w % 256 = 0xA9 then some ⟨.ffOpcode, bytesOf 1 w⟩
    else some ⟨.ffOperand, bytesOf 1 w⟩
  else if nbits = 16 then
    if 0xFF0 ≤ w % 4096 ∧ w % 4096 ≤ 0xFF3 then some ⟨.hostWrite, bytesOf 2 w⟩
    else some ⟨.hostRead, bytesOf 2 w⟩
  else if nbits = 24 then some ⟨.ffOpcode, (bytesOf 3 w).reverse⟩
  else if nbits = 32 then some ⟨.armCallback, bytesOf 4 w⟩
  else none

/-- The operation the decoder reads from a word of spec/opcode_table.json; operand bytes above it are 0. -/
def decodeTableWord (nbits w : Nat) : Option Instr :=
  match tablePacket nbits w with
  | none => none
  | some p =>
    match decode ⟨p.port, p.bytes ++ List.replicate 11 0⟩ with
    | .ok i => some i
    | .error _ => none

end Sys2Proof
end

