-- ==== Sys2Proof/Machine/State.lean ====
section
/-! DEFINITION. The state of the device as plain data: the record of 10_state.md R20, the parameters of 00_scope.md
R7 that a statement should hold for, and the model's own fields (requests, sequencer, answer, counter). -/

namespace Sys2Proof.Machine

/-- A memory: the bytes that are not 0, by strictly rising address (Machine/Memory.lean). -/
abbrev Memory := List Host.Cell

/-- One value per voice (R6 `VOICES` = 3). -/
structure Voices (α : Type) where
  v0 : α
  v1 : α
  v2 : α
deriving DecidableEq, Repr

/-- `OSC_ARITH` (R7, D3): how the 20 kHz tick count is computed. -/
inductive OscArith where
  /-- The exact rational 2400/143183 with an integer residue (R143). -/
  | rational
  /-- The source's IEEE 754 binary64 expression (R142). -/
  | f64Reference
deriving DecidableEq, Repr

/-- The ARM bridge's sequencer (R223). -/
inductive Sequencer where
  /-- No run: host operations are taken. -/
  | idle
  /-- A run with the budget it was handed, in host cycles (R222): only the ARM acts, the host is paused. -/
  | running (budget : Int)
deriving DecidableEq, Repr

/-- An operation of the host CPU or the host environment (R8). -/
inductive HostRequest where
  | peek (addr : Word16) (now : Cycles)
  | poke (addr : Word16) (val : Byte) (now : Cycles)
  | reset (now : Cycles)
  /-- DESIGN CHOICE (log 29): the offset is a signed 64-bit number, as `now` is; R8 and R276 give it no type. -/
  | cyclesReset (offset : Cycles)
  | setBankLock (b : Bool)
  | patch (addr : Word16) (val : Byte)
  | getBank
deriving DecidableEq, Repr

/-- An action of the ARM during a run, or the end of the run (R225, R232, R234). -/
inductive ArmRequest where
  | callback (code a1 a2 : Word32)
  | ramRead (x : Word32)
  | romRead (x : Word32)
  | ramWrite (x : Word32) (val : Byte)
  /-- An internal step: it changes `arm_state` only. -/
  | internal (armState : List Byte)
  /-- The run ends, normally or by a fault of the ARM. -/
  | finish (faulted : Bool)
deriving DecidableEq, Repr

/-- What an operation answered to the agent that issued it (R8). -/
inductive Result where
  /-- Nothing: a Poke, `Reset`, `CyclesReset`, `SetBankLock`, the end of a run. -/
  | nothing
  /-- The data of a Peek, or of an ARM read. -/
  | byte (b : Byte)
  /-- The value of a callback. -/
  | word (w : Word32)
  /-- The bool of `Patch`. -/
  | flag (b : Bool)
  /-- The bank of `GetBank`. -/
  | bank (n : Fin 7)
deriving DecidableEq, Repr

/-- The state of the device. -/
structure State where
  /-- The ROM image, offsets 0..32767 (R21). -/
  image : Memory
  /-- Cartridge RAM, offsets 0..8191: driver RAM with the stream register file, then display RAM (R22, R24). -/
  ram : Memory
  /-- The selected program bank (R29). -/
  currentBank : Fin 7
  /-- The mode byte (R30). -/
  mode : Byte
  /-- The LDA latch: offset after the last `A9` read, or 0 (R33). -/
  ldaOperandAddr : Word16
  /-- The fast-jump latch's address (R34). -/
  jmpOperandAddr : Word16
  /-- The fast-jump latch's count (R34). -/
  fastJumpActive : Byte
  /-- Phase accumulators (R36). -/
  musicCounters : Voices Word32
  /-- Increments per 20 kHz tick (R37). -/
  musicFrequencies : Voices Word32
  /-- Right shifts that index the waveforms (R38). -/
  musicWaveformSize : Voices Byte
  /-- `now` of the last audio update or reset (R40). -/
  audioCycles : Cycles
  /-- `now` of the last CALLFN run or reset (R40). -/
  armCycles : Cycles
  /-- Residue of the tick count, in 1/143183 ticks (R41, R143). -/
  oscRem : Nat
  /-- The debugger's bank lock (R32). -/
  bankLocked : Bool
  /-- What the ARM keeps between runs, opaque (R43). -/
  armState : List Byte
  /-- PARAMETER `RAM_INIT`: display RAM after reset, offsets 0..6143 (R7, R272). -/
  ramInit : Memory
  /-- PARAMETER `OSC_ARITH` (R7, D3). -/
  oscArith : OscArith
  /-- PARAMETER `TRAPFATAL` (R7, R243): read by no rule of the device. -/
  trapFatal : Bool
  /-- The binary64 residue that stands in for `oscRem` under `f64Reference` (R41, R142, D3), as its 64 bits. -/
  fractionalClocks : BitVec 64
  /-- The ARM bridge's sequencer (R223). -/
  sequencer : Sequencer
  /-- The ghost flag of R242 (D26): some ARM run has ended by a fault. It feeds back into no rule. -/
  armFaulted : Bool
  /-- THE MODEL'S OWN: host operations still to come, in the order issued (R10; log 9). -/
  hostQueue : List HostRequest
  /-- THE MODEL'S OWN: ARM actions still to come, in order (R225; log 10). -/
  armQueue : List ArmRequest
  /-- THE MODEL'S OWN: the answer of the last operation (R8; log 20). -/
  result : Result
  /-- THE MODEL'S OWN: the operation number that free values are drawn with (log 17). -/
  freeCount : Nat
deriving DecidableEq, Repr

/-- Why the machine stops for good. -/
inductive Fault where
  /-- Raised by `step` when a run is on and the ARM has no further action: a run that never ends. The Poke never
  completes and the host stays paused (R233). Safe: no later state is claimed. -/
  | armRunNeverEnds
deriving DecidableEq, Repr

/-- Why an operation has no meaning; each but the first is a `refuse` of the spec itself. -/
inductive Refusal where
  /-- Raised by `exec` for a row without a meaning; no arm answers it. Safe. -/
  | notModelled (mnemonic : String)
  /-- Raised by `step` when what an agent presents decodes to no operation: in effect a callback code above 3
  (R226, D14). Safe. -/
  | undecodable (e : DecodeError)
  /-- Raised by SETNOTE, RESETWAVE, GETWAVEPTR and SETWAVESIZE for a voice above 2 (R231, D12). Safe. -/
  | voiceOutOfRange (v : Word32)
  /-- Raised by CALLFN with 254 or 255 when the budget does not fit an `i32` (R222, D15). Safe. -/
  | budgetOutsideI32 (budget : Int)
  /-- Raised by `construct` for an image shorter than 2 KiB (R274, U3). Safe. -/
  | imageTooShort
deriving DecidableEq, Repr

/-- The machine right after reset (R20, R45, R271), with the image, `RAM_INIT`, `now` and `arm_state` that logs 1
to 4 name, and nothing requested. -/
def State.reset : State where
  image := []
  ram := []
  currentBank := Config.startupBank
  mode := 0xFF
  ldaOperandAddr := 0
  jmpOperandAddr := 0
  fastJumpActive := 0
  musicCounters := ⟨0, 0, 0⟩
  musicFrequencies := ⟨0, 0, 0⟩
  musicWaveformSize := ⟨Config.waveSizeReset, Config.waveSizeReset, Config.waveSizeReset⟩
  audioCycles := 0
  armCycles := 0
  oscRem := 0
  bankLocked := false
  armState := []
  ramInit := []
  oscArith := .rational
  trapFatal := false
  fractionalClocks := 0
  sequencer := .idle
  armFaulted := false
  hostQueue := []
  armQueue := []
  result := .nothing
  freeCount := 0

end Sys2Proof.Machine
end

