-- ==== Sys2Proof/Machine/Memory.lean ====
section
/-! DEFINITION. Memories as canonical lists, and the words of driver RAM built from their bytes (20_memory.md R65). -/

namespace Sys2Proof.Machine

/-- What an address that no entry lists reads as (log 2). -/
def unlistedByte : Byte := 0

/-- The byte at an address. -/
def readByte : Memory → Nat → Byte
  | [], _ => unlistedByte
  | (a, b) :: m, k => if a = k then b else readByte m k

/-- Put an entry before a memory; the unlisted byte is not listed. -/
def consByte (k : Nat) (v : Byte) (m : Memory) : Memory := if v = unlistedByte then m else (k, v) :: m

/-- Put a byte at its place in the order of a memory that does not list its address. -/
def insertByte : Memory → Nat → Byte → Memory
  | [], k, v => consByte k v []
  | (a, b) :: m, k, v => if k < a then consByte k v ((a, b) :: m) else (a, b) :: insertByte m k v

/-- Store a byte: its old entry goes, its new one is put in; storing the unlisted byte leaves no entry. -/
def writeByte (m : Memory) (k : Nat) (v : Byte) : Memory := insertByte (m.filter fun c => c.1 ≠ k) k v

/-- Addresses rise strictly from a bound on, stay below the size, and no entry is the unlisted byte. -/
def wfFrom (size : Nat) : Nat → Memory → Bool
  | _, [] => true
  | lo, (a, b) :: m => decide (lo ≤ a) && decide (a < size) && decide (b ≠ unlistedByte) && wfFrom size (a + 1) m

/-- A memory of `size` bytes is in canonical form. -/
def Memory.wf (size : Nat) (m : Memory) : Bool := wfFrom size 0 m

/-- `n` consecutive bytes of a memory, lowest address first. -/
def readBytes (m : Memory) (k : Nat) : Nat → List Byte
  | 0 => []
  | n + 1 => readByte m k :: readBytes m (k + 1) n

/-- Store consecutive bytes. -/
def writeBytes (m : Memory) (k : Nat) : List Byte → Memory
  | [] => m
  | b :: t => writeBytes (writeByte m k b) (k + 1) t

/-- `LE32(o)` (R12). -/
def readLE32 (m : Memory) (o : Nat) : Word32 :=
  readByte m (o + 3) ++ readByte m (o + 2) ++ readByte m (o + 1) ++ readByte m o

/-- `WLE32(o, v)` (R12). -/
def writeLE32 (m : Memory) (o : Nat) (v : Word32) : Memory :=
  writeByte (writeByte (writeByte (writeByte m o (v.extractLsb' 0 8)) (o + 1) (v.extractLsb' 8 8))
    (o + 2) (v.extractLsb' 16 8)) (o + 3) (v.extractLsb' 24 8)

/-- Cartridge RAM after `Reset`: the image's first 2048 bytes, then `RAM_INIT` in display RAM (R271). -/
def resetRam (image ramInit : Memory) : Memory :=
  (image.filter fun c => c.1 < Config.driverSize) ++
    (ramInit.filter fun c => c.1 < Config.displaySize).map fun c => (c.1 + Config.driverSize, c.2)

end Sys2Proof.Machine
end

