-- ==== Sys2Proof/Machine/Flags.lean ====
section
/-! DEFINITION. The predicates on state that the rules test. The device has no flags of the usual kind (R240);
these are the two readings of the mode byte and the decoder's state matches. -/

namespace Sys2Proof.Machine

/-- `fast_fetch_on` (R13). -/
def fastFetchOn (s : State) : Bool := decide (s.mode &&& 0x0F = 0)

/-- `digital_audio_on` (R13). -/
def digitalAudioOn (s : State) : Bool := decide (s.mode &&& 0xF0 = 0)

/-- Step 2's condition: a fast jump is pending and this is its operand offset. The mode is not tested (R173). -/
def continuationAt (s : State) (a : Offset) : Bool :=
  decide (s.fastJumpActive ≠ 0) && decide (a.setWidth 16 = s.jmpOperandAddr)

/-- The LDA latch names this offset; the idle value 0 names offset 0 (R176, R178). -/
def ldaLatchAt (s : State) (a : Offset) : Bool := decide (a.setWidth 16 = s.ldaOperandAddr)

end Sys2Proof.Machine
end

