-- ==== Sys2Proof/Machine/Operands.lean ====
section
/-! DEFINITION. The operand forms: the bytes under a window offset, stream table entries, voices and ARM addresses. -/

namespace Sys2Proof.Machine

/-- `addr & 0x0FFF` (R14, R90). -/
def windowOffset (addr : Word16) : Offset := addr.setWidth 12

/-- The program index `b*4096 + a` of a window offset in the current bank (R71, R165). -/
def progIndex (s : State) (a : Offset) : Nat := s.currentBank.val * Config.bankSize + a.toNat

/-- `PROG[k]`, `k < 28672` (R12). -/
def progByte (s : State) (k : Nat) : Byte := readByte s.image (Config.programBase + k)

/-- `rom = PROG[b*4096 + a]` (R170). -/
def romByte (s : State) (a : Offset) : Byte := progByte s (progIndex s a)

/-- The look-ahead byte at program index `k`: linear in program ROM, a free value past its end (R185, D9). -/
def lookAhead (s : State) (k site : Nat) : Byte :=
  if k < Config.programSize then progByte s k else Config.freeByte s.freeCount site

/-- The first byte after the one at `a` (R174). -/
def next1 (s : State) (a : Offset) : Byte := lookAhead s (progIndex s a + 1) 0

/-- The second byte after the one at `a` (R174). -/
def next2 (s : State) (a : Offset) : Byte := lookAhead s (progIndex s a + 2) 1

/-- RAM offset of `DSxPTR[i]` (R24). -/
def ptrOffset (i : Fin 34) : Nat := Config.ptrTable + 4 * i.val

/-- RAM offset of `DSxINC[i]` (R24). -/
def incOffset (i : Fin 34) : Nat := Config.incTable + 4 * i.val

/-- `WAVE_WORD(v)`: the word of the waveform table that voice `v` uses, `v + 1` (R128, log 26). -/
def waveWord (v : Fin 3) : Nat := v.val + 1

/-- The display RAM index a pointer holds, `p[31:20]` (R25). -/
def streamIndex (p : Word32) : Nat := (p >>> 20).toNat

/-- RAM offset of display RAM byte `k` (R12 `D[k]`). -/
def displayOffset (k : Nat) : Nat := Config.driverSize + k

/-- `D[k]` (R12). -/
def displayByte (s : State) (k : Nat) : Byte := readByte s.ram (displayOffset k)

/-- The voice of a callback's `a1`; none above 2 (R231). -/
def voice? (v : Word32) : Option (Fin 3) := if h : v.toNat < 3 then some ⟨v.toNat, h⟩ else none

/-- The value of a voice. -/
def Voices.get {α : Type} (x : Voices α) (v : Fin 3) : α :=
  match v with
  | 0 => x.v0
  | 1 => x.v1
  | 2 => x.v2

/-- Replace the value of a voice. -/
def Voices.set {α : Type} (x : Voices α) (v : Fin 3) (y : α) : Voices α :=
  match v with
  | 0 => ⟨y, x.v1, x.v2⟩
  | 1 => ⟨x.v0, y, x.v2⟩
  | 2 => ⟨x.v0, x.v1, y⟩

/-- The RAM offset of an ARM address in `0x40000000..0x40001FFF` (R64). -/
def armRamOffset? (x : Word32) : Option Nat :=
  if Config.armRamBase ≤ x.toNat ∧ x.toNat < Config.armRamBase + Config.ramSize then
    some (x.toNat - Config.armRamBase)
  else none

/-- The image offset of an ARM address in `0..0x7FFF` (R64). -/
def armRomOffset? (x : Word32) : Option Nat := if x.toNat < Config.armRomLimit then some x.toNat else none

end Sys2Proof.Machine
end

