-- ==== Sys2Proof/Machine/Ops.lean ====
section
/-! DEFINITION. The shared operations of the device: the answer, the stream codec (40_stream_codec.md), the bank
controller's `bank(n)` (R160), the steps of the read tree (R172), the start and the ends of an ARM run
(45_arm_bridge.md). R248: there is no trap entry and no trap return; a run's start and ends are what the device has
in their place. -/

namespace Sys2Proof.Machine

/-- How an operation of this device answers. -/
abbrev Step := Host.Outcome State Fault Refusal

/-- The operation answers `r` (R8). -/
def answer (r : Result) (s : State) : State := { s with result := r }

/-! ### Stream codec -/

/-- `get_ptr(i)` (R120). -/
def getPtr (s : State) (i : Fin 34) : Word32 := readLE32 s.ram (ptrOffset i)

/-- `set_ptr(i, v)` (R121). -/
def setPtr (i : Fin 34) (v : Word32) (s : State) : State := { s with ram := writeLE32 s.ram (ptrOffset i) v }

/-- `get_inc(i)` (R122). -/
def getInc (s : State) (i : Fin 34) : Word32 := readLE32 s.ram (incOffset i)

/-- `set_inc(i, v)` (R123): no operation of the device calls it. -/
def setInc (i : Fin 34) (v : Word32) (s : State) : State := { s with ram := writeLE32 s.ram (incOffset i) v }

/-- The byte a stream's pointer names, `D[p >> 20]` (R125). -/
def streamByte (s : State) (i : Fin 34) : Byte := displayByte s (streamIndex (getPtr s i))

/-- Move a pointer, modulo 2^32 (R126). -/
def advancePtr (i : Fin 34) (amount : Word32) (s : State) : State := setPtr i (getPtr s i + amount) s

/-- `get_inc(i) << 12` in 32 bits (R124). -/
def effectiveIncrement (s : State) (i : Fin 34) : Word32 := getInc s i <<< 12

/-- `read_stream(i)`: the byte first, then the pointer (R125). -/
def readStream (i : Fin 34) (s : State) : State :=
  answer (.byte (streamByte s i)) (advancePtr i (effectiveIncrement s i) s)

/-- `get_waveform(v)` (R128). -/
def getWaveform (s : State) (v : Fin 3) : Nat :=
  let r := readLE32 s.ram (Config.waveformTable + 4 * waveWord v) - 0x40000800
  (if 4096 ≤ r.toNat then r &&& 4095 else r).toNat

/-- `get_sample()` (R129). -/
def getSample (s : State) : Word32 := readLE32 s.ram Config.waveformTable

/-! ### Banks and latches -/

/-- `bank(n)` (R160). -/
def bank (n : Fin 7) (s : State) : State := if s.bankLocked then s else { s with currentBank := n }

/-- Step 4: `jmp_operand_addr <- 0` (R175). -/
def clearJump (s : State) : State := { s with jmpOperandAddr := 0 }

/-- Step 6: `lda_operand_addr <- 0` (R179). -/
def clearLda (s : State) : State := { s with ldaOperandAddr := 0 }

/-- Step 7: a hotspot offset switches the bank (R182). -/
def hotspotStep (a : Offset) (s : State) : State :=
  match hotspotBank? a with
  | some n => bank n s
  | none => s

/-- Step 8's action: `lda_operand_addr <- a + 1`, not reduced to 12 bits (R181). -/
def armLda (a : Offset) (s : State) : State := { s with ldaOperandAddr := a.setWidth 16 + 1 }

/-- Step 8: arm the latch when fast-fetch is on and the byte read is `A9` (R181). -/
def opcodeStep (a : Offset) (rom : Byte) (s : State) : State :=
  if fastFetchOn s && decide (rom = 0xA9) then armLda a s else s

/-! ### ARM runs -/

/-- The cycle budget of a run: the mathematical difference of two `i64` (R222). -/
def armBudget (now : Cycles) (s : State) : Int := now.toInt - s.armCycles.toInt

/-- The start of a run: rebase `arm_cycles`, hand the budget over, pause the host (R222, R223). -/
def armRun (now : Cycles) (s : State) : Step :=
  let budget := armBudget now s
  if -2147483648 ≤ budget ∧ budget < 2147483648 then
    .next (answer .nothing { s with armCycles := now, sequencer := .running budget })
  else .refused (.budgetOutsideI32 budget)

/-- The end of a run; the Poke completes, nothing is rolled back, a fault is remembered in the ghost flag only
(R232, R234, R242). -/
def armEnd (faulted : Bool) (s : State) : State :=
  answer .nothing { s with sequencer := .idle, armFaulted := s.armFaulted || faulted }

/-- An ARM access outside the two regions, or a write to the image, is an ARM fault and ends the run (R64, D18;
log 13). -/
def armFault (s : State) : State := armEnd true s

/-- A callback acts on a voice, or is refused (R231). -/
def onVoice (v : Word32) (f : Fin 3 → State) : Step :=
  match voice? v with
  | some k => .next (f k)
  | none => .refused (.voiceOutOfRange v)

end Sys2Proof.Machine
end

