-- ==== Sys2Proof/Machine/ArmBridge.lean ====
section
/-! DEFINITION. What the ARM does to the device during a run (45_arm_bridge.md R225 to R231): the four callbacks
and its byte accesses. That a run is on is the sequencer's matter (Machine/Step.lean, log 28). None of them updates
the audio (R236). -/

namespace Sys2Proof.Machine

/-- SETNOTE (R227); the value returned is 0 (D13). -/
def execSetnote (v f : Word32) (s : State) : Step :=
  onVoice v fun k => answer (.word 0) { s with musicFrequencies := s.musicFrequencies.set k f }

/-- RESETWAVE (R228); the value returned is 0 (D13). -/
def execResetwave (v : Word32) (s : State) : Step :=
  onVoice v fun k => answer (.word 0) { s with musicCounters := s.musicCounters.set k 0 }

/-- GETWAVEPTR (R229): the counter as of the last audio update. -/
def execGetwaveptr (v : Word32) (s : State) : Step :=
  onVoice v fun k => answer (.word (s.musicCounters.get k)) s

/-- SETWAVESIZE (R230): the low 8 bits are kept; the value returned is 0 (D13). -/
def execSetwavesize (v size : Word32) (s : State) : Step :=
  onVoice v fun k => answer (.word 0) { s with musicWaveformSize := s.musicWaveformSize.set k (size.setWidth 8) }

/-- ARMRAMREAD (R225). -/
def execArmramread (x : Word32) (s : State) : Step :=
  match armRamOffset? x with
  | some k => .next (answer (.byte (readByte s.ram k)) s)
  | none => .next (armFault s)

/-- ARMROMREAD (R225). -/
def execArmromread (x : Word32) (s : State) : Step :=
  match armRomOffset? x with
  | some k => .next (answer (.byte (readByte s.image k)) s)
  | none => .next (armFault s)

/-- ARMRAMWRITE (R225). -/
def execArmramwrite (x : Word32) (val : Byte) (s : State) : Step :=
  match armRamOffset? x with
  | some k => .next (answer .nothing { s with ram := writeByte s.ram k val })
  | none => .next (armFault s)

end Sys2Proof.Machine
end

