-- ==== Sys2Proof/Machine/Environment.lean ====
section
/-! DEFINITION. The operations of the host environment (R8): reset, cycle rebase, bank lock, patch, bank query; and
the construction and installation that stand before them (70_reset_and_hazards.md R270, R274). -/

namespace Sys2Proof.Machine

/-- `Reset(now)` (R271). `bank_locked`, `image` and `arm_state` are left as they are. -/
def resetDevice (now : Cycles) (s : State) : State :=
  { s with
    ram := resetRam s.image s.ramInit
    currentBank := Config.startupBank
    mode := 0xFF
    ldaOperandAddr := 0
    jmpOperandAddr := 0
    fastJumpActive := 0
    musicCounters := ⟨0, 0, 0⟩
    musicFrequencies := ⟨0, 0, 0⟩
    musicWaveformSize := ⟨Config.waveSizeReset, Config.waveSizeReset, Config.waveSizeReset⟩
    audioCycles := now
    armCycles := now
    oscRem := 0
    fractionalClocks := 0 }

/-- A baseline less the offset, both signed (DESIGN CHOICE: the offset's type, log 29); a free value where the
difference does not fit an `i64` (R276, log 19). -/
def rebase (c offset : Cycles) (op site : Nat) : Cycles :=
  let r := c.toInt - offset.toInt
  if -9223372036854775808 ≤ r ∧ r < 9223372036854775808 then BitVec.ofInt 64 r else Config.freeCycles op site

/-- The image index that `Patch` writes (R251). -/
def patchIndex (s : State) (a : Offset) : Nat := Config.programBase + progIndex s a

/-- RESET (R271). -/
def execReset (now : Cycles) (s : State) : Step := .next (answer .nothing (resetDevice now s))

/-- CYCLESRESET (R276). -/
def execCyclesreset (offset : Cycles) (s : State) : Step :=
  .next (answer .nothing
    { s with
      audioCycles := rebase s.audioCycles offset s.freeCount 0
      armCycles := rebase s.armCycles offset s.freeCount 1 })

/-- SETBANKLOCK (R252). -/
def execSetbanklock (b : Bool) (s : State) : Step := .next (answer .nothing { s with bankLocked := b })

/-- PATCH (R251): offsets below 0x40 are refused with `false`; the value answered on a write is `true` (D27). -/
def execPatch (addr : Word16) (val : Byte) (s : State) : Step :=
  let a := windowOffset addr
  if 0x40 ≤ a.toNat then .next (answer (.flag true) { s with image := writeByte s.image (patchIndex s a) val })
  else .next (answer (.flag false) s)

/-- GETBANK (R163). -/
def execGetbank (s : State) : Step := .next (answer (.bank s.currentBank) s)

/-- Image byte `k` of a file: its own byte, or a free value past its end (R270, D20). -/
def constructedByte (file : List Byte) (k : Nat) : Byte := file.getD k (Config.imageFill k)

/-- Construction from a file, followed by power-on's `Reset(now)` (R270, R271, N21); a file shorter than 2 KiB is
refused (R274, U3). No operation of a program reaches it (log 25). -/
def construct (file : List Byte) (ramInit : Memory) (osc : OscArith) (trapFatal : Bool) (now : Cycles) : Step :=
  if file.length < Config.driverSize then .refused .imageTooShort
  else
    .next (resetDevice now
      { State.reset with
        image := writeBytes [] 0 ((List.range Config.imageSize).map (constructedByte file))
        ramInit := ramInit
        oscArith := osc
        trapFatal := trapFatal })

/-- `install`: connect the window and select the start-up bank through `bank(n)` (R274). -/
def install (s : State) : State := bank Config.startupBank s

end Sys2Proof.Machine
end

