-- ==== Sys2Proof/Machine/Float64.lean ====
section
/-! DEFINITION. The five binary64 operations that `OSC_ARITH = f64_reference` needs (41_audio.md R142, R143):
conversion, division, addition, floor, subtraction, each the exact rational result rounded to nearest, ties to even.
Infinities and NaNs are not given a meaning: no operand reached from reset is one (log 7). -/

namespace Sys2Proof.Machine

/-- The exact value of a finite binary64 as numerator and positive denominator. -/
def f64Value (x : BitVec 64) : Int × Nat :=
  let e := (x.extractLsb' 52 11).toNat
  let f := (x.extractLsb' 0 52).toNat
  let m : Nat := if e = 0 then f else 4503599627370496 + f
  let shift := if e = 0 then 1 else e
  let sign : Int := if x.msb then -1 else 1
  if 1075 ≤ shift then (sign * (m * 2 ^ (shift - 1075) : Nat), 1) else (sign * (m : Nat), 2 ^ (1075 - shift))

/-- `n / d` scaled by `2^sh`, rounded down, with what is left over the divisor: quotient, remainder, divisor. -/
def scaledQuotient (n d : Nat) (sh : Int) : Nat × Nat × Nat :=
  let n' := if 0 ≤ sh then n * 2 ^ sh.toNat else n
  let d' := if 0 ≤ sh then d else d * 2 ^ (-sh).toNat
  (n' / d', n' % d', d')

/-- The scaling that leaves 53 significant bits, or the subnormal scaling 2^1074 where that is smaller. -/
def f64Scale (n d : Nat) : Int :=
  let sh := 52 - ((n.log2 : Int) - (d.log2 : Int))
  min (if (scaledQuotient n d sh).1 < 4503599627370496 then sh + 1 else sh) 1074

/-- A quotient rounded to nearest, ties to even. -/
def roundHalfEven (q : Nat × Nat × Nat) : Nat :=
  if 2 * q.2.1 < q.2.2 then q.1
  else if q.2.2 < 2 * q.2.1 then q.1 + 1
  else q.1 + q.1 % 2

/-- The binary64 nearest to `n / d`, `d > 0`. -/
def f64Round (n : Int) (d : Nat) : BitVec 64 :=
  if n = 0 then 0
  else
    let sh := f64Scale n.natAbs d
    let q := roundHalfEven (scaledQuotient n.natAbs d sh)
    -- a significand of 2^52 or more has its leading bit added into the exponent field
    let magnitude := (1074 - sh).toNat * 4503599627370496 + q
    BitVec.ofNat 64 ((if n < 0 then 9223372036854775808 else 0) + magnitude)

/-- An integer as binary64. -/
def f64OfInt (n : Int) : BitVec 64 := f64Round n 1

/-- Division; the divisor is not zero. -/
def f64Div (x y : BitVec 64) : BitVec 64 :=
  let a := f64Value x
  let b := f64Value y
  f64Round (a.1 * b.1.sign * b.2) (a.2 * b.1.natAbs)

/-- Addition. -/
def f64Add (x y : BitVec 64) : BitVec 64 :=
  let a := f64Value x
  let b := f64Value y
  f64Round (a.1 * b.2 + b.1 * a.2) (a.2 * b.2)

/-- Subtraction. -/
def f64Sub (x y : BitVec 64) : BitVec 64 :=
  let a := f64Value x
  let b := f64Value y
  f64Round (a.1 * b.2 - b.1 * a.2) (a.2 * b.2)

/-- The integer part, rounded down. -/
def f64Floor (x : BitVec 64) : Int := (f64Value x).1 / ((f64Value x).2 : Int)

/-- The literal `1193191.66666667` of the source (R6 `HOST_HZ`). -/
def f64HostHz : BitVec 64 := f64Round 119319166666667 100000000

end Sys2Proof.Machine
end

