-- ==== Sys2Proof/Machine/Audio.lean ====
section
/-! DEFINITION. The oscillator update and the sample (41_audio.md), invoked by AMPLITUDE alone (R140). -/

namespace Sys2Proof.Machine

/-- `delta <- now - st.audio_cycles`, a mathematical integer (R141). -/
def audioDelta (now : Cycles) (s : State) : Int := now.toInt - s.audioCycles.toInt

/-- The whole ticks and the residue, exact (R143): floor quotient and remainder of `2400*delta + osc_rem`. -/
def ticksRational (delta : Int) (oscRem : Nat) : Int × Nat :=
  let t := 2400 * delta + oscRem
  (t / 143183, (t % 143183).toNat)

/-- The whole ticks and the residue in binary64, in the order the source writes (R142, D3). -/
def ticksF64 (delta : Int) (fractional : BitVec 64) : Int × BitVec 64 :=
  let clocks := f64Add (f64Div (f64OfInt (20000 * delta)) f64HostHz) fractional
  let whole := f64Floor clocks
  (whole, f64Sub clocks (f64OfInt whole))

/-- One counter advanced by `whole` ticks; the product is reduced with the sum (R144, D22). -/
def advanceCounter (c f : Word32) (whole : Int) : Word32 := BitVec.ofInt 32 (c.toNat + f.toNat * whole)

/-- The counters of the three voices advanced, unless no whole tick has passed (R142, R144). -/
def advanceCounters (whole : Int) (s : State) : State :=
  if whole ≤ 0 then s
  else
    { s with
      musicCounters :=
        ⟨advanceCounter s.musicCounters.v0 s.musicFrequencies.v0 whole,
          advanceCounter s.musicCounters.v1 s.musicFrequencies.v1 whole,
          advanceCounter s.musicCounters.v2 s.musicFrequencies.v2 whole⟩ }

/-- `update_audio(now)` (R140 to R144). The residue is stored before the early return (R143). -/
def updateAudio (now : Cycles) (s : State) : State :=
  let delta := audioDelta now s
  match s.oscArith with
  | .rational =>
    let t := ticksRational delta s.oscRem
    advanceCounters t.1 { s with audioCycles := now, oscRem := t.2 }
  | .f64Reference =>
    let t := ticksF64 delta s.fractionalClocks
    advanceCounters t.1 { s with audioCycles := now, fractionalClocks := t.2 }

/-- The address of the digital sample, modulo 2^32 (R146, D21). -/
def sampleAddr (s : State) : Word32 := getSample s + (s.musicCounters.v0 >>> 21)

/-- The byte at the digital sample address: image, RAM, or 0 (R146, R244). -/
def sampleByte (s : State) : Byte :=
  match armRomOffset? (sampleAddr s), armRamOffset? (sampleAddr s) with
  | some k, _ => readByte s.image k
  | none, some k => readByte s.ram k
  | none, none => 0

/-- The digital sample: the high nibble while bit 20 of counter 0 is clear, then the low one (R147). -/
def digitalSample (s : State) : Byte :=
  (if s.musicCounters.v0.getLsbD 20 then sampleByte s else sampleByte s >>> 4) &&& 0x0F

/-- The display RAM index of a voice's term, formed without masking (R149). -/
def mixerIndex (s : State) (v : Fin 3) : Nat :=
  getWaveform s v + (s.musicCounters.get v >>> (s.musicWaveformSize.get v).toNat).toNat

/-- A voice's term; a free value where its size is 32 or more or its index is 6144 or more (R149, R150). -/
def mixerTerm (s : State) (v : Fin 3) : Byte :=
  if 32 ≤ (s.musicWaveformSize.get v).toNat ∨ Config.displaySize ≤ mixerIndex s v then
    Config.freeByte s.freeCount (2 + v.val)
  else displayByte s (mixerIndex s v)

/-- The additive sample, modulo 256 (R149). -/
def additiveSample (s : State) : Byte := mixerTerm s 0 + mixerTerm s 1 + mixerTerm s 2

/-- The sample of the updated state (R145). -/
def sample (s : State) : Byte := if digitalAudioOn s then digitalSample s else additiveSample s

/-- `audio_sample(now)`: the update, then the sample as the answer (R145). -/
def audioSample (now : Cycles) (s : State) : State :=
  let s' := updateAudio now s
  answer (.byte (sample s')) s'

end Sys2Proof.Machine
end

