-- ==== Sys2Proof/Machine/ReadDecoder.lean ====
section
/-! DEFINITION. The rows of HOST_READ, FF_OPCODE and FF_OPERAND: the effect of a Peek whose decision tree
(43_fast_fetch.md R172, R190) ends at the row. Steps 4, 6, 7 and 8 that the tree passes on its way belong to the
row's meaning; the byte `rom` is that of the bank before step 7 (R166, R170). -/

namespace Sys2Proof.Machine

/-- Step 2's effect: count, address and JUMPSTREAM pointer move, the stream-33 byte is the answer (R173). -/
def continueJump (s : State) : State :=
  answer (.byte (streamByte s Config.jumpStream))
    (advancePtr Config.jumpStream Config.byteStep
      { s with fastJumpActive := s.fastJumpActive - 1, jmpOperandAddr := s.jmpOperandAddr + 1 })

/-- Step 3's effect (R174). -/
def triggerJump (a : Offset) (s : State) : State :=
  answer (.byte (romByte s a)) { s with fastJumpActive := 2, jmpOperandAddr := a.setWidth 16 + 1 }

/-- Steps 4 and 5: both operand addresses are cleared, then the captured operand's byte is produced (R175 to
R177). No later step runs, so no bank is switched (R176). -/
def capture (produce : State → State) (s : State) : State := produce (clearLda (clearJump s))

/-- The whole Peek at a hotspot offset that reaches step 7: steps 4, 6, 7, 8, 9 (R161, R182, R181, R183). -/
def bankRead (n : Fin 7) (a : Offset) (s : State) : State :=
  answer (.byte (romByte s a)) (opcodeStep a (romByte s a) (bank n (clearLda (clearJump s))))

/-- JMP.CONT (R173). -/
def execJmpCont (_a : Offset) (s : State) : Step := .next (continueJump s)

/-- BANK0.R (R161). -/
def execBank0R (s : State) : Step := .next (bankRead 0 0xFF5 s)

/-- BANK1.R (R161). -/
def execBank1R (s : State) : Step := .next (bankRead 1 0xFF6 s)

/-- BANK2.R (R161). -/
def execBank2R (s : State) : Step := .next (bankRead 2 0xFF7 s)

/-- BANK3.R (R161). -/
def execBank3R (s : State) : Step := .next (bankRead 3 0xFF8 s)

/-- BANK4.R (R161). -/
def execBank4R (s : State) : Step := .next (bankRead 4 0xFF9 s)

/-- BANK5.R (R161). -/
def execBank5R (s : State) : Step := .next (bankRead 5 0xFFA s)

/-- BANK6.R (R161). -/
def execBank6R (s : State) : Step := .next (bankRead 6 0xFFB s)

/-- ROMREAD (R183): while bank-locked nothing but the answer (R171); else steps 4, 6 and 9. -/
def execRomread (a : Offset) (s : State) : Step :=
  .next (answer (.byte (romByte s a)) (if s.bankLocked then s else clearLda (clearJump s)))

/-- JMP.FAST (R174). -/
def execJmpFast (a : Offset) (s : State) : Step := .next (triggerJump a s)

/-- LDA.IMM (R181): steps 4, 6, 7, 8, 9, the latch armed. -/
def execLdaImm (a : Offset) (s : State) : Step :=
  .next (answer (.byte (romByte s a)) (armLda a (hotspotStep a (clearLda (clearJump s)))))

/-- DS0 (R177). -/
def execDs0 (s : State) : Step := .next (capture (readStream 0) s)

/-- DS1 (R177). -/
def execDs1 (s : State) : Step := .next (capture (readStream 1) s)

/-- DS2 (R177). -/
def execDs2 (s : State) : Step := .next (capture (readStream 2) s)

/-- DS3 (R177). -/
def execDs3 (s : State) : Step := .next (capture (readStream 3) s)

/-- DS4 (R177). -/
def execDs4 (s : State) : Step := .next (capture (readStream 4) s)

/-- DS5 (R177). -/
def execDs5 (s : State) : Step := .next (capture (readStream 5) s)

/-- DS6 (R177). -/
def execDs6 (s : State) : Step := .next (capture (readStream 6) s)

/-- DS7 (R177). -/
def execDs7 (s : State) : Step := .next (capture (readStream 7) s)

/-- DS8 (R177). -/
def execDs8 (s : State) : Step := .next (capture (readStream 8) s)

/-- DS9 (R177). -/
def execDs9 (s : State) : Step := .next (capture (readStream 9) s)

/-- DS10 (R177). -/
def execDs10 (s : State) : Step := .next (capture (readStream 10) s)

/-- DS11 (R177). -/
def execDs11 (s : State) : Step := .next (capture (readStream 11) s)

/-- DS12 (R177). -/
def execDs12 (s : State) : Step := .next (capture (readStream 12) s)

/-- DS13 (R177). -/
def execDs13 (s : State) : Step := .next (capture (readStream 13) s)

/-- DS14 (R177). -/
def execDs14 (s : State) : Step := .next (capture (readStream 14) s)

/-- DS15 (R177). -/
def execDs15 (s : State) : Step := .next (capture (readStream 15) s)

/-- DS16 (R177). -/
def execDs16 (s : State) : Step := .next (capture (readStream 16) s)

/-- DS17 (R177). -/
def execDs17 (s : State) : Step := .next (capture (readStream 17) s)

/-- DS18 (R177). -/
def execDs18 (s : State) : Step := .next (capture (readStream 18) s)

/-- DS19 (R177). -/
def execDs19 (s : State) : Step := .next (capture (readStream 19) s)

/-- DS20 (R177). -/
def execDs20 (s : State) : Step := .next (capture (readStream 20) s)

/-- DS21 (R177). -/
def execDs21 (s : State) : Step := .next (capture (readStream 21) s)

/-- DS22 (R177). -/
def execDs22 (s : State) : Step := .next (capture (readStream 22) s)

/-- DS23 (R177). -/
def execDs23 (s : State) : Step := .next (capture (readStream 23) s)

/-- DS24 (R177). -/
def execDs24 (s : State) : Step := .next (capture (readStream 24) s)

/-- DS25 (R177). -/
def execDs25 (s : State) : Step := .next (capture (readStream 25) s)

/-- DS26 (R177). -/
def execDs26 (s : State) : Step := .next (capture (readStream 26) s)

/-- DS27 (R177). -/
def execDs27 (s : State) : Step := .next (capture (readStream 27) s)

/-- DS28 (R177). -/
def execDs28 (s : State) : Step := .next (capture (readStream 28) s)

/-- DS29 (R177). -/
def execDs29 (s : State) : Step := .next (capture (readStream 29) s)

/-- DS30 (R177). -/
def execDs30 (s : State) : Step := .next (capture (readStream 30) s)

/-- DS31 (R177). -/
def execDs31 (s : State) : Step := .next (capture (readStream 31) s)

/-- COMMSTREAM (R177): stream 32 through its own increment register (R127). -/
def execCommstream (s : State) : Step := .next (capture (readStream Config.commStream) s)

/-- JUMPSTREAM (R177): stream 33 through its own increment register (R127). -/
def execJumpstream (s : State) : Step := .next (capture (readStream Config.jumpStream) s)

/-- AMPLITUDE (R177, R145). -/
def execAmplitude (now : Cycles) (s : State) : Step := .next (capture (audioSample now) s)

/-- PASS (R176): not intercepted, the read goes on: steps 4, 6, 7, 8, 9. -/
def execPass (rom : Byte) (a : Offset) (s : State) : Step :=
  .next (answer (.byte rom) (opcodeStep a rom (hotspotStep a (clearLda (clearJump s)))))

end Sys2Proof.Machine
end

