-- ==== Sys2Proof/Machine/WritePorts.lean ====
section
/-! DEFINITION. The rows of HOST_WRITE and CALLFN_ARG (44_write_ports.md, 45_arm_bridge.md R220). A Poke reads no
ROM, touches no latch and answers nothing (R201); the bank lock stops only the bank switches (R209). -/

namespace Sys2Proof.Machine

/-- The new COMMSTREAM pointer after DSPTR (R203). -/
def shiftedPtr (p : Word32) (val : Byte) : Word32 := ((p <<< 8) &&& (0xF0000000 : Word32)) ||| (val.setWidth 32 <<< 20)

/-- DSWRITE (R202): the store first, then the fixed step of one byte. -/
def execDswrite (val : Byte) (s : State) : Step :=
  let p := getPtr s Config.commStream
  let stored := { s with ram := writeByte s.ram (displayOffset (streamIndex p)) val }
  .next (answer .nothing (setPtr Config.commStream (p + Config.byteStep) stored))

/-- DSPTR (R203). -/
def execDsptr (val : Byte) (s : State) : Step :=
  .next (answer .nothing (setPtr Config.commStream (shiftedPtr (getPtr s Config.commStream) val) s))

/-- SETMODE (R204). -/
def execSetmode (val : Byte) (s : State) : Step := .next (answer .nothing { s with mode := val })

/-- CALLFN (R205, R220). -/
def execCallfn (val : Byte) (now : Cycles) (s : State) : Step :=
  if val = 254 ∨ val = 255 then armRun now s else .next (answer .nothing s)

/-- BANK0.W (R162, R206): the data is ignored. -/
def execBank0W (_val : Byte) (s : State) : Step := .next (answer .nothing (bank 0 s))

/-- BANK1.W (R162, R206): the data is ignored. -/
def execBank1W (_val : Byte) (s : State) : Step := .next (answer .nothing (bank 1 s))

/-- BANK2.W (R162, R206): the data is ignored. -/
def execBank2W (_val : Byte) (s : State) : Step := .next (answer .nothing (bank 2 s))

/-- BANK3.W (R162, R206): the data is ignored. -/
def execBank3W (_val : Byte) (s : State) : Step := .next (answer .nothing (bank 3 s))

/-- BANK4.W (R162, R206): the data is ignored. -/
def execBank4W (_val : Byte) (s : State) : Step := .next (answer .nothing (bank 4 s))

/-- BANK5.W (R162, R206): the data is ignored. -/
def execBank5W (_val : Byte) (s : State) : Step := .next (answer .nothing (bank 5 s))

/-- BANK6.W (R162, R206): the data is ignored. -/
def execBank6W (_val : Byte) (s : State) : Step := .next (answer .nothing (bank 6 s))

/-- WRITE_IGNORED (R207). -/
def execWriteIgnored (_a : Offset) (_val : Byte) (s : State) : Step := .next (answer .nothing s)

/-- CALLFN.RUN254 (R220). -/
def execCallfnRun254 (now : Cycles) (s : State) : Step := armRun now s

/-- CALLFN.RUN255 (R220): the same as 254 to the device (R221). -/
def execCallfnRun255 (now : Cycles) (s : State) : Step := armRun now s

/-- CALLFN.NOP (R220): `arm_cycles` is not updated. -/
def execCallfnNop (_val : Byte) (s : State) : Step := .next (answer .nothing s)

end Sys2Proof.Machine
end

