-- ==== Sys2Proof/Machine/Dispatch.lean ====
section
/-! DEFINITION. One arm per row of spec/opcode_table.json. -/

namespace Sys2Proof.Machine

def exec (i : Instr) (s : State) : Host.Outcome State Fault Refusal :=
  match i with
  | .jmpCont a => Sys2Proof.Machine.execJmpCont a s
  | .bank0R => Sys2Proof.Machine.execBank0R s
  | .bank1R => Sys2Proof.Machine.execBank1R s
  | .bank2R => Sys2Proof.Machine.execBank2R s
  | .bank3R => Sys2Proof.Machine.execBank3R s
  | .bank4R => Sys2Proof.Machine.execBank4R s
  | .bank5R => Sys2Proof.Machine.execBank5R s
  | .bank6R => Sys2Proof.Machine.execBank6R s
  | .romread a => Sys2Proof.Machine.execRomread a s
  | .dswrite val => Sys2Proof.Machine.execDswrite val s
  | .dsptr val => Sys2Proof.Machine.execDsptr val s
  | .setmode val => Sys2Proof.Machine.execSetmode val s
  | .callfn val now => Sys2Proof.Machine.execCallfn val now s
  | .bank0W val => Sys2Proof.Machine.execBank0W val s
  | .bank1W val => Sys2Proof.Machine.execBank1W val s
  | .bank2W val => Sys2Proof.Machine.execBank2W val s
  | .bank3W val => Sys2Proof.Machine.execBank3W val s
  | .bank4W val => Sys2Proof.Machine.execBank4W val s
  | .bank5W val => Sys2Proof.Machine.execBank5W val s
  | .bank6W val => Sys2Proof.Machine.execBank6W val s
  | .writeIgnored a val => Sys2Proof.Machine.execWriteIgnored a val s
  | .jmpFast a => Sys2Proof.Machine.execJmpFast a s
  | .ldaImm a => Sys2Proof.Machine.execLdaImm a s
  | .ds0 => Sys2Proof.Machine.execDs0 s
  | .ds1 => Sys2Proof.Machine.execDs1 s
  | .ds2 => Sys2Proof.Machine.execDs2 s
  | .ds3 => Sys2Proof.Machine.execDs3 s
  | .ds4 => Sys2Proof.Machine.execDs4 s
  | .ds5 => Sys2Proof.Machine.execDs5 s
  | .ds6 => Sys2Proof.Machine.execDs6 s
  | .ds7 => Sys2Proof.Machine.execDs7 s
  | .ds8 => Sys2Proof.Machine.execDs8 s
  | .ds9 => Sys2Proof.Machine.execDs9 s
  | .ds10 => Sys2Proof.Machine.execDs10 s
  | .ds11 => Sys2Proof.Machine.execDs11 s
  | .ds12 => Sys2Proof.Machine.execDs12 s
  | .ds13 => Sys2Proof.Machine.execDs13 s
  | .ds14 => Sys2Proof.Machine.execDs14 s
  | .ds15 => Sys2Proof.Machine.execDs15 s
  | .ds16 => Sys2Proof.Machine.execDs16 s
  | .ds17 => Sys2Proof.Machine.execDs17 s
  | .ds18 => Sys2Proof.Machine.execDs18 s
  | .ds19 => Sys2Proof.Machine.execDs19 s
  | .ds20 => Sys2Proof.Machine.execDs20 s
  | .ds21 => Sys2Proof.Machine.execDs21 s
  | .ds22 => Sys2Proof.Machine.execDs22 s
  | .ds23 => Sys2Proof.Machine.execDs23 s
  | .ds24 => Sys2Proof.Machine.execDs24 s
  | .ds25 => Sys2Proof.Machine.execDs25 s
  | .ds26 => Sys2Proof.Machine.execDs26 s
  | .ds27 => Sys2Proof.Machine.execDs27 s
  | .ds28 => Sys2Proof.Machine.execDs28 s
  | .ds29 => Sys2Proof.Machine.execDs29 s
  | .ds30 => Sys2Proof.Machine.execDs30 s
  | .ds31 => Sys2Proof.Machine.execDs31 s
  | .commstream => Sys2Proof.Machine.execCommstream s
  | .jumpstream => Sys2Proof.Machine.execJumpstream s
  | .amplitude now => Sys2Proof.Machine.execAmplitude now s
  | .pass rom a => Sys2Proof.Machine.execPass rom a s
  | .callfnRun254 now => Sys2Proof.Machine.execCallfnRun254 now s
  | .callfnRun255 now => Sys2Proof.Machine.execCallfnRun255 now s
  | .callfnNop val => Sys2Proof.Machine.execCallfnNop val s
  | .setnote v f => Sys2Proof.Machine.execSetnote v f s
  | .resetwave v => Sys2Proof.Machine.execResetwave v s
  | .getwaveptr v => Sys2Proof.Machine.execGetwaveptr v s
  | .setwavesize v size => Sys2Proof.Machine.execSetwavesize v size s
  | .reset now => Sys2Proof.Machine.execReset now s
  | .cyclesreset offset => Sys2Proof.Machine.execCyclesreset offset s
  | .setbanklock b => Sys2Proof.Machine.execSetbanklock b s
  | .patch addr val => Sys2Proof.Machine.execPatch addr val s
  | .getbank => Sys2Proof.Machine.execGetbank s
  | .armramread x => Sys2Proof.Machine.execArmramread x s
  | .armromread x => Sys2Proof.Machine.execArmromread x s
  | .armramwrite x val => Sys2Proof.Machine.execArmramwrite x val s

end Sys2Proof.Machine
end

