-- ==== Sys2Proof/Machine/Fetch.lean ====
section
/-! DEFINITION. From what an agent presents to the packet that is decoded. A Peek is presented to the port that the
decision tree's state conditions select (43_fast_fetch.md R172; the `condition` fields of R105), a Poke to CALLFN to
CALLFN_ARG (R205), everything else to its one port. And, for a table word, the request and the conditions that make
the next step meet it. -/

namespace Sys2Proof.Machine

/-- Step 3's condition but for the mode: `4C 00 00` at the offset, the two later bytes by look-ahead (R174). -/
def jumpPatternAt (s : State) (a : Offset) : Bool :=
  decide (romByte s a = 0x4C) && decide (next1 s a = 0) && decide (next2 s a = 0)

/-- The port a Peek is presented to. Steps 1, 2 and 3 first; then the LDA latch (step 5, rows up to AMPLITUDE and
PASS), an `A9` byte (step 8), and the offset (steps 7 and 9). Among the last three every row that also applies has
the same effect (log 22). -/
def readPort (s : State) (a : Offset) : Port :=
  if s.bankLocked then .lockedRead
  else if continuationAt s a then .jumpContinuation
  else if fastFetchOn s && jumpPatternAt s a then .ffOpcode
  else if fastFetchOn s && ldaLatchAt s a then .ffOperand
  else if fastFetchOn s && decide (romByte s a = 0xA9) then .ffOpcode
  else .hostRead

/-- The bytes of a Peek at a port: its offset alone, or the ROM bytes at it with the offset (and `now`). -/
def readBytesAt (s : State) (p : Port) (a : Offset) (now : Cycles) : List Byte :=
  match p with
  | .ffOpcode => romByte s a :: next1 s a :: next2 s a :: bytesOf 2 a.toNat
  | .ffOperand => romByte s a :: (bytesOf 2 a.toNat ++ bytesOf 8 now.toNat)
  | _ => bytesOf 2 a.toNat

/-- The packet of a Peek. -/
def peekPacket (s : State) (addr : Word16) (now : Cycles) : Packet :=
  let a := windowOffset addr
  ⟨readPort s a, readBytesAt s (readPort s a) a now⟩

/-- The packet of a Poke (R200): the data of a Poke to CALLFN goes to CALLFN_ARG (R205, R220). -/
def pokePacket (addr : Word16) (val : Byte) (now : Cycles) : Packet :=
  if windowOffset addr = 0xFF3 then ⟨.callfnArg, val :: bytesOf 8 now.toNat⟩
  else writePacket addr.toNat val now

/-- The packet of an operation of the host CPU or the host environment. -/
def hostPacket (s : State) (r : HostRequest) : Packet :=
  match r with
  | .peek addr now => peekPacket s addr now
  | .poke addr val now => pokePacket addr val now
  | .reset now => encode (.reset now)
  | .cyclesReset offset => encode (.cyclesreset offset)
  | .setBankLock b => encode (.setbanklock b)
  | .patch addr val => encode (.patch addr val)
  | .getBank => encode .getbank

/-! ### Placing a table word for the next step -/

/-- Turn fast-fetch on and keep the audio kind; turn it off and keep the audio kind. -/
def modeFast (m : Byte) : Byte := m &&& 0xF0
def modePlain (m : Byte) : Byte := if m &&& 0x0F = 0 then m ||| 0x0F else m

/-- The window offset at which a placed ROM byte is read. -/
def placeOffset : Offset := 0x100

/-- Host operations are taken, the lock is off, no fast jump is pending, and this request is the next one. -/
def placeHost (r : HostRequest) (s : State) : State :=
  { s with
    sequencer := .idle
    bankLocked := false
    fastJumpActive := 0
    hostQueue := r :: s.hostQueue }

/-- ROM bytes at `placeOffset` of the current bank, with fast-fetch on and the LDA latch at `latch`. -/
def placeRom (bytes : List Byte) (latch : Word16) (s : State) : State :=
  let s := placeHost (.peek (0x1000 ||| placeOffset.setWidth 16) 0) s
  { s with
    mode := modeFast s.mode
    ldaOperandAddr := latch
    image := writeBytes s.image (Config.programBase + progIndex s placeOffset) bytes }

/-- An intercepted operand byte; one that begins a jump pattern is kept apart from it. -/
def placeOperand (w : Byte) (s : State) : State :=
  placeRom (if w = 0x4C then [w, 0x01] else [w]) (placeOffset.setWidth 16) s

/-- The conditions under which the next step decodes a table word, by the port `tablePacket` finds for it. -/
def placeWord (nbits w : Nat) (s : State) : State :=
  match tablePacket nbits w with
  | none => s
  | some p =>
    match p.port with
    | .callfnArg => placeHost (.poke 0x1FF3 (BitVec.ofNat 8 w) 0) s
    | .ffOperand => placeOperand (BitVec.ofNat 8 w) s
    | .ffOpcode => placeRom p.bytes 0 s
    | .hostWrite => placeHost (.poke (BitVec.ofNat 16 w) 0 0) s
    | .armCallback =>
      { s with
        sequencer := .running 0
        armQueue := .callback (BitVec.ofNat 32 w) 0 0 :: s.armQueue }
    | _ =>
      let s := placeHost (.peek (BitVec.ofNat 16 w) 0) s
      { s with mode := modePlain s.mode }

end Sys2Proof.Machine
end

