-- ==== Sys2Proof/Machine/Step.lean ====
section
/-! DEFINITION. One step of the machine: the next operation, from the ARM while a run is on, from the host
otherwise, executed to completion (00_scope.md R10, 45_arm_bridge.md R223). -/

namespace Sys2Proof.Machine

/-- The state an operation is executed in: it is off its queue, and free values are drawn under a fresh number. -/
def takeHost (rest : List HostRequest) (s : State) : State :=
  { s with hostQueue := rest, freeCount := s.freeCount + 1 }

/-- As `takeHost`, from the ARM's queue. -/
def takeArm (rest : List ArmRequest) (s : State) : State :=
  { s with armQueue := rest, freeCount := s.freeCount + 1 }

/-- Decode a packet and execute what it is. -/
def runPacket (p : Packet) (s : State) : Host.Outcome State Fault Refusal :=
  match decode p with
  | .ok i => exec i s
  | .error e => .refused (.undecodable e)

/-- The next action of a run: an internal step changes `arm_state` only, an end returns to the host (R225, R232,
R234); a run whose ARM does nothing more and does not end hangs the machine (R233). -/
def stepArm (s : State) : Host.Outcome State Fault Refusal :=
  match s.armQueue with
  | [] => .fault .armRunNeverEnds
  | .internal armState :: rest => .next (answer .nothing { takeArm rest s with armState := armState })
  | .finish faulted :: rest => .next (armEnd faulted (takeArm rest s))
  | .callback code a1 a2 :: rest => runPacket (callbackPacket code a1 a2) (takeArm rest s)
  | .ramRead x :: rest => runPacket (encode (.armramread x)) (takeArm rest s)
  | .romRead x :: rest => runPacket (encode (.armromread x)) (takeArm rest s)
  | .ramWrite x val :: rest => runPacket (encode (.armramwrite x val)) (takeArm rest s)

/-- The next host operation; with none the device, which acts on operations only (R8), stays as it is. -/
def stepHost (s : State) : Host.Outcome State Fault Refusal :=
  match s.hostQueue with
  | [] => .next s
  | r :: rest => runPacket (hostPacket (takeHost rest s) r) (takeHost rest s)

/-- One step. -/
def step (s : State) : Host.Outcome State Fault Refusal :=
  match s.sequencer with
  | .idle => stepHost s
  | .running _ => stepArm s

/-- The state with a table word placed where the next step meets it: the request that presents it, and the
conditions under which its port is the one decoded (log 23). -/
def State.withFetchWord (s : State) (nbits w : Nat) : State := placeWord nbits w s

end Sys2Proof.Machine
end

