-- ==== Sys2Proof/Machine/PeekTree.lean ====
section
/-! DEFINITION. 43_fast_fetch.md R190 transcribed line by line, independently of the rows: what a Peek does as one
operation. `step` does not use it; a statement says that a Peek's step is this. -/

namespace Sys2Proof.Machine

/-- Step 2 of R190. -/
def treeContinuation (s : State) : State :=
  let p := getPtr s 33
  let v := displayByte s (streamIndex p)
  answer (.byte v) (setPtr 33 (p + 0x00100000)
    { s with fastJumpActive := s.fastJumpActive - 1, jmpOperandAddr := s.jmpOperandAddr + 1 })

/-- The byte of step 5 of R190: a sample for 0x22, else `read_stream(rom)`, `rom` = 0..33 (R125). -/
def treeCapture (rom : Byte) (now : Cycles) (s : State) : State :=
  if h : rom.toNat < 34 then
    let i : Fin 34 := ⟨rom.toNat, h⟩
    let p := getPtr s i
    answer (.byte (displayByte s (streamIndex p))) (setPtr i (p + getInc s i <<< 12) s)
  else audioSample now s

/-- Steps 6 to 9 of R190, after step 4. -/
def treeTail (a : Offset) (rom : Byte) (s : State) : State :=
  let s := { s with ldaOperandAddr := 0 }
  let s := if h : 0xFF5 ≤ a.toNat ∧ a.toNat ≤ 0xFFB then bank ⟨a.toNat - 0xFF5, by omega⟩ s else s
  let s := if fastFetchOn s ∧ rom = 0xA9 then { s with ldaOperandAddr := a.setWidth 16 + 1 } else s
  answer (.byte rom) s

/-- `Peek(addr, now)` (R190). -/
def peekTree (addr : Word16) (now : Cycles) (s : State) : State :=
  let a := windowOffset addr
  let rom := romByte s a
  if s.bankLocked then answer (.byte rom) s
  else if s.fastJumpActive ≠ 0 ∧ a.setWidth 16 = s.jmpOperandAddr then treeContinuation s
  else if fastFetchOn s ∧ rom = 0x4C ∧ next1 s a = 0 ∧ next2 s a = 0 then
    answer (.byte rom) { s with fastJumpActive := 2, jmpOperandAddr := a.setWidth 16 + 1 }
  else
    let s := { s with jmpOperandAddr := 0 }
    if fastFetchOn s ∧ a.setWidth 16 = s.ldaOperandAddr ∧ rom ≤ 0x22 then
      treeCapture rom now { s with ldaOperandAddr := 0 }
    else treeTail a rom s

end Sys2Proof.Machine
end

