-- ==== Sys2Proof/Safety.lean ====
section
/-! DEFINITION. The terms of the claims: the invariant of 10_state.md R44 with the canonical form of the memories,
what it means that an operation leaves part of the state alone, and what a binary64 number is. -/

namespace Sys2Proof.Machine

/-- The invariants of R44 (the bank's range is its type; the range of a stream index is a statement of its own), and
the canonical form of the three memories. -/
structure Inv (s : State) : Prop where
  lda_le : s.ldaOperandAddr.toNat ≤ 0x1000
  jmp_le : s.jmpOperandAddr.toNat ≤ 0x1000
  count_le : s.fastJumpActive.toNat ≤ 2
  rem_lt : s.oscRem < 143183
  image_wf : Memory.wf Config.imageSize s.image = true
  ram_wf : Memory.wf Config.ramSize s.ram = true
  ramInit_wf : Memory.wf Config.displaySize s.ramInit = true

/-- Every RAM byte outside `[lo, lo + n)` reads as before. -/
def RamSameOutside (lo n : Nat) (s t : State) : Prop :=
  ∀ k, ¬ (lo ≤ k ∧ k < lo + n) → readByte t.ram k = readByte s.ram k

/-- The stream increments and the waveform words, `RAM[0x0768..0x07FF]`, read as before (R28). -/
def TablesSame (s t : State) : Prop := ∀ k, 0x0768 ≤ k → k < 0x0800 → readByte t.ram k = readByte s.ram k

/-- The music register pack is as before (R36 to R38). -/
def MusicSame (s t : State) : Prop :=
  t.musicCounters = s.musicCounters ∧ t.musicFrequencies = s.musicFrequencies ∧
    t.musicWaveformSize = s.musicWaveformSize

/-- The fast-fetch latches are as before (R33, R34). -/
def LatchesSame (s t : State) : Prop :=
  t.ldaOperandAddr = s.ldaOperandAddr ∧ t.jmpOperandAddr = s.jmpOperandAddr ∧ t.fastJumpActive = s.fastJumpActive

/-- The audio clock is as before (R40, R41). -/
def AudioClockSame (s t : State) : Prop :=
  t.audioCycles = s.audioCycles ∧ t.oscRem = s.oscRem ∧ t.fractionalClocks = s.fractionalClocks

/-- The device takes host operations and `r` is the next one, before `rest` (R10, R223). -/
def HostNext (s : State) (r : HostRequest) (rest : List HostRequest) : Prop :=
  s.sequencer = .idle ∧ s.hostQueue = r :: rest

/-- A run is on and `r` is the ARM's next action, before `rest` (R223, R225). -/
def ArmNext (s : State) (r : ArmRequest) (rest : List ArmRequest) : Prop :=
  (∃ budget, s.sequencer = .running budget) ∧ s.armQueue = r :: rest

/-- `k` steps, all answering a next state, lead from `s` to `t`. -/
def stepsTo : Nat → State → State → Prop
  | 0, s, t => t = s
  | k + 1, s, t => ∃ u, step s = .next u ∧ stepsTo k u t

/-- A host operation that is neither a Peek or Poke of a bank hotspot nor a Reset (R167). -/
def leavesBank : HostRequest → Bool
  | .peek addr _ => !isHotspot (windowOffset addr)
  | .poke addr _ _ => !isHotspot (windowOffset addr)
  | .reset _ => false
  | .cyclesReset _ => true
  | .setBankLock _ => true
  | .patch _ _ => true
  | .getBank => true

/-! ### Binary64, as IEEE 754 defines it (41_audio.md R142, R143; log 7)

The terms are those of the standard and share nothing with Machine/Float64.lean, which is held against them. -/

/-- The exponent field, bits 62..52. -/
abbrev f64Exponent (x : BitVec 64) : Nat := (x.extractLsb' 52 11).toNat

/-- Neither an infinity nor a NaN. -/
abbrev f64Finite (x : BitVec 64) : Prop := f64Exponent x < 2047

/-- The number a finite pattern stands for: sign, significand with its hidden bit, power of two. -/
def f64Number (x : BitVec 64) : ℚ :=
  (if x.msb then -1 else 1) *
    (((x.extractLsb' 0 52).toNat + if f64Exponent x = 0 then 0 else 4503599627370496 : Nat) : ℚ) *
    2 ^ (((max (f64Exponent x) 1 : Nat) : Int) - 1075)

/-- The largest finite number. -/
def f64Largest : ℚ := 9007199254740991 * 2 ^ 971

/-- `x` is `q` rounded to nearest, ties to even: no finite pattern is nearer, and where another number is as near
the last bit of `x` is 0. -/
def NearestF64 (q : ℚ) (x : BitVec 64) : Prop :=
  f64Finite x ∧ ∀ y, f64Finite y → |f64Number x - q| ≤ |f64Number y - q| ∧
    (|f64Number x - q| = |f64Number y - q| → f64Number y ≠ f64Number x → x.getLsbD 0 = false)

end Sys2Proof.Machine
end

