-- ==== Sys2Proof/Certificates/Slice0/Obligations.lean ====
section
/-! DEFINITION. The statements for the provers. Each docstring names the rule it formalises. -/

open Sys2Proof Sys2Proof.Machine

/-- Decoding the encoding of every well-formed operation gives it back (30_encoding.md R90 to R98, R105). -/
def Obligations.DecodeOfEncodeIsTheOperation : Prop :=
  ∀ i : Instr, i.wellFormed = true → decode (encode i) = .ok i

/-- Every step keeps the invariants of R44 and the canonical form of the three memories (R44, R20, R22). -/
def Obligations.EveryStepKeepsTheInvariant : Prop :=
  ∀ s t : State, Inv s → step s = .next t → Inv t

/-- A Peek's step, decoded to one row and executed, is the nine-step decision tree of R190 (R170, R171, R172, R173,
R174, R175, R176, R177, R179, R181, R182, R190). -/
def Obligations.PeekStepIsTheReadTree : Prop :=
  ∀ (s : State) (addr : Word16) (now : Cycles) (rest : List HostRequest),
    HostNext s (.peek addr now) rest → step s = .next (peekTree addr now (takeHost rest s))

/-- Without a Peek or Poke of a hotspot and without a Reset no number of steps changes the bank; Reset selects bank
6 (R167). -/
def Obligations.BankStaysWithoutHotspotAccess : Prop :=
  (∀ (k : Nat) (s t : State), (∀ r ∈ s.hostQueue, leavesBank r = true) →
      stepsTo k s t → t.currentBank = s.currentBank) ∧
    ∀ (now : Cycles) (s : State), ∃ t, exec (.reset now) s = .next t ∧ t.currentBank = 6

/-- A step of an ARM run leaves image, bank, mode, latches, cycle baselines, residue, bank lock and the host's queue
alone (R225, R223, R236). -/
def Obligations.ArmRunStaysInItsEnvelope : Prop :=
  ∀ (s t : State) (budget : Int), s.sequencer = .running budget → step s = .next t →
    t.image = s.image ∧ t.currentBank = s.currentBank ∧ t.mode = s.mode ∧ LatchesSame s t ∧ AudioClockSame s t ∧
      t.armCycles = s.armCycles ∧ t.bankLocked = s.bankLocked ∧ t.ramInit = s.ramInit ∧
      t.oscArith = s.oscArith ∧ t.trapFatal = s.trapFatal ∧ t.hostQueue = s.hostQueue

/-- A Poke's step does not depend on program ROM or the latches, and leaves them and the audio state alone (a run it
starts takes steps of its own: log 11) (R201, 45_arm_bridge.md R223). -/
def Obligations.PokeNeitherReadsRomNorLatches : Prop :=
  ∀ (s : State) (addr : Word16) (val : Byte) (now : Cycles) (rest : List HostRequest),
    HostNext s (.poke addr val now) rest →
      (∀ t, step s = .next t → t.image = s.image ∧ LatchesSame s t ∧ AudioClockSame s t ∧ MusicSame s t ∧
        t.result = .nothing) ∧
      ∀ (image : Memory) (lda jmp : Word16) (count : Byte),
        step { s with image := image, ldaOperandAddr := lda, jmpOperandAddr := jmp, fastJumpActive := count } =
          match step s with
          | .next t =>
            .next { t with image := image, ldaOperandAddr := lda, jmpOperandAddr := jmp, fastJumpActive := count }
          | .fault f => .fault f
          | .refused r => .refused r

/-- DS0..DS31, COMMSTREAM, JUMPSTREAM: the byte at p[31:20], then pointer + (increment << 12); nothing else but the
latches (R125, R175, R176, R177). -/
def Obligations.StreamReadReturnsByteThenAdvancesPointer : Prop :=
  ∀ (i : Fin 34) (s : State), ∃ t, exec (streamRead i) s = .next t ∧
    t = { s with
          ram := t.ram, jmpOperandAddr := 0, ldaOperandAddr := 0,
          result := .byte (readByte s.ram (0x0800 + (getPtr s i).toNat / 1048576)) } ∧
    getPtr t i = getPtr s i + getInc s i <<< 12 ∧ RamSameOutside (0x06E0 + 4 * i.val) 4 s t

/-- A stream read adds inc[19:0] * 4096 modulo 2^32 and never changes the pointer's low 12 bits (R126, R25, R124). -/
def Obligations.StreamReadKeepsLowPointerBits : Prop :=
  ∀ (i : Fin 34) (s t : State), exec (streamRead i) s = .next t →
    (getPtr t i).toNat = ((getPtr s i).toNat + (getInc s i).toNat % 1048576 * 4096) % 4294967296 ∧
      (getPtr t i).toNat % 4096 = (getPtr s i).toNat % 4096

/-- get_ptr and get_inc are the little-endian words at 0x06E0 + 4i and 0x0768 + 4i (R120, R122). -/
def Obligations.TableWordsAreLittleEndian : Prop :=
  ∀ (s : State) (i : Fin 34),
    (getPtr s i).toNat =
        (readByte s.ram (0x06E0 + 4 * i.val)).toNat + 256 * (readByte s.ram (0x06E0 + 4 * i.val + 1)).toNat +
          65536 * (readByte s.ram (0x06E0 + 4 * i.val + 2)).toNat +
            16777216 * (readByte s.ram (0x06E0 + 4 * i.val + 3)).toNat ∧
      (getInc s i).toNat =
        (readByte s.ram (0x0768 + 4 * i.val)).toNat + 256 * (readByte s.ram (0x0768 + 4 * i.val + 1)).toNat +
          65536 * (readByte s.ram (0x0768 + 4 * i.val + 2)).toNat +
            16777216 * (readByte s.ram (0x0768 + 4 * i.val + 3)).toNat

/-- get_waveform(v) is WAVEFORM word v+1 less 0x40000800 modulo 2^32, masked to 12 bits (R128). -/
def Obligations.WaveformOffsetIsMaskedDifference : Prop :=
  ∀ (s : State) (v : Fin 3), getWaveform s v =
    ((readLE32 s.ram (0x07F0 + 4 * (v.val + 1))).toNat + 4294967296 - 0x40000800) % 4294967296 % 4096

/-- AMPLITUDE, rational arithmetic: baseline, residue and counters after 2400/143183 ticks a cycle; nothing else but
latches and data (R141, R143, R144, R175, R176, 92_eei_decisions.md D3, D22, D32). -/
def Obligations.AmplitudeAdvancesTheOscillator : Prop :=
  ∀ (now : Cycles) (s : State), s.oscArith = .rational →
    let x : Int := 2400 * (now.toInt - s.audioCycles.toInt) + s.oscRem
    ∃ t, exec (.amplitude now) s = .next t ∧
      t = { s with
            jmpOperandAddr := 0, ldaOperandAddr := 0, audioCycles := now, oscRem := t.oscRem,
            musicCounters := t.musicCounters, result := t.result } ∧
      (t.oscRem : Int) = x % 143183 ∧
      ∀ v : Fin 3, ((t.musicCounters.get v).toNat : Int) =
        if x / 143183 ≤ 0 then ((s.musicCounters.get v).toNat : Int)
        else ((s.musicCounters.get v).toNat + (s.musicFrequencies.get v).toNat * (x / 143183)) % 4294967296

/-- AMPLITUDE, binary64 arithmetic: counters advance by the whole ticks of R142's expression, its residue is kept;
osc_rem stays as it is (log 6) (R141, R142, R143, R144, R41, R175, R176, 92_eei_decisions.md D3, D22, D32). -/
def Obligations.AmplitudeUnderBinary64KeepsTheRationalResidue : Prop :=
  ∀ (now : Cycles) (s : State), s.oscArith = .f64Reference →
    let delta : Int := now.toInt - s.audioCycles.toInt
    let clocks := f64Add (f64Div (f64OfInt (20000 * delta)) f64HostHz) s.fractionalClocks
    let whole := f64Floor clocks
    ∃ t, exec (.amplitude now) s = .next t ∧
      t = { s with
            jmpOperandAddr := 0, ldaOperandAddr := 0, audioCycles := now,
            fractionalClocks := f64Sub clocks (f64OfInt whole),
            musicCounters := t.musicCounters, result := t.result } ∧
      ∀ v : Fin 3, ((t.musicCounters.get v).toNat : Int) =
        if whole ≤ 0 then ((s.musicCounters.get v).toNat : Int)
        else ((s.musicCounters.get v).toNat + (s.musicFrequencies.get v).toNat * whole) % 4294967296

/-- AMPLITUDE in digital mode returns the nibble chosen by bit 20 of the byte at sample base + (counter 0 >> 21), or
0 outside (R145, R146, R147, 92_eei_decisions.md D21). -/
def Obligations.AmplitudeDigitalSampleIsTheNibble : Prop :=
  ∀ (now : Cycles) (s : State), digitalAudioOn s = true →
    ∃ t, exec (.amplitude now) s = .next t ∧
      let c0 := t.musicCounters.v0
      let addr := ((readLE32 s.ram 0x07F0).toNat + c0.toNat / 2097152) % 4294967296
      let byte : Byte :=
        if addr < 0x8000 then readByte s.image addr
        else if 0x40000000 ≤ addr ∧ addr < 0x40002000 then readByte s.ram (addr - 0x40000000)
        else 0
      t.result = .byte (BitVec.ofNat 8 (if c0.getLsbD 20 then byte.toNat % 16 else byte.toNat / 16))

/-- AMPLITUDE in additive mode returns the 8-bit sum of three terms: a display byte, or where R150 opens a term a
free byte in its place alone (log 18) (R145, R149, R150, 92_eei_decisions.md D10, D11). -/
def Obligations.AmplitudeAdditiveSampleIsTheSum : Prop :=
  ∀ (now : Cycles) (s : State), digitalAudioOn s = false →
    ∃ (t : State) (x : Fin 3 → Byte), exec (.amplitude now) s = .next t ∧ t.result = .byte (x 0 + x 1 + x 2) ∧
      ∀ v : Fin 3,
        let size := (s.musicWaveformSize.get v).toNat
        let k := getWaveform s v + (t.musicCounters.get v).toNat / 2 ^ size
        x v = if size < 32 ∧ k < 6144 then readByte s.ram (0x0800 + k)
          else Config.freeByte s.freeCount (2 + v.val)

/-- ROMREAD returns ROM[4096 + bank*4096 + a]; unlocked it clears both operand addresses, locked it changes nothing
(R165, R171, R175, R179, R183). -/
def Obligations.RomreadReturnsTheRomByte : Prop :=
  ∀ (a : Offset) (s : State), exec (.romread a) s = .next
    { s with
      jmpOperandAddr := if s.bankLocked then s.jmpOperandAddr else 0
      ldaOperandAddr := if s.bankLocked then s.ldaOperandAddr else 0
      result := .byte (readByte s.image (4096 + (s.currentBank.val * 4096 + a.toNat))) }

/-- BANK0.R..BANK6.R: the data is the old bank's byte, the bank becomes n unless locked, the latches follow steps 4,
6, 8 (R160, R161, R166, R175, R179, R181, R182). -/
def Obligations.BankReadReturnsOldBankByteAndSwitches : Prop :=
  ∀ (n : Fin 7) (s : State), ∃ t, exec (bankReadRow n) s = .next t ∧
    let rom := readByte s.image (4096 + (s.currentBank.val * 4096 + (0xFF5 + n.val)))
    t = { s with
          currentBank := if s.bankLocked then s.currentBank else n
          jmpOperandAddr := 0
          ldaOperandAddr := if fastFetchOn s = true ∧ rom = 0xA9 then BitVec.ofNat 16 (0xFF5 + n.val + 1) else 0
          result := .byte rom }

/-- LDA.IMM sets lda_operand_addr to a + 1 without reducing it to 12 bits; a hotspot offset also switches the bank
(R160, R172, R175, R181, R182, R183). -/
def Obligations.LdaOpcodeArmsTheLatch : Prop :=
  (∀ (a : Offset) (s : State), ∃ t, exec (.ldaImm a) s = .next t ∧ t.ldaOperandAddr.toNat = a.toNat + 1 ∧
      t = { s with
            currentBank := (hotspotBank? a).elim s.currentBank fun n => if s.bankLocked then s.currentBank else n
            jmpOperandAddr := 0, ldaOperandAddr := t.ldaOperandAddr, result := .byte (romByte s a) }) ∧
    ∀ (s : State) (addr : Word16) (now : Cycles), s.bankLocked = false →
      continuationAt s (windowOffset addr) = false → fastFetchOn s = true →
      ldaLatchAt s (windowOffset addr) = false → romByte s (windowOffset addr) = 0xA9 →
      decode (hostPacket s (.peek addr now)) = .ok (.ldaImm (windowOffset addr))

/-- PASS returns the operand byte itself, clears the latch, and steps 7 and 8 still act (R160, R175, R176, R179,
R181, R182, R183). -/
def Obligations.PassContinuesTheRead : Prop :=
  ∀ (rom : Byte) (a : Offset) (s : State), ∃ t, exec (.pass rom a) s = .next t ∧
    t = { s with
          currentBank := (hotspotBank? a).elim s.currentBank fun n => if s.bankLocked then s.currentBank else n
          jmpOperandAddr := 0
          ldaOperandAddr := if fastFetchOn s = true ∧ rom = 0xA9 then BitVec.ofNat 16 (a.toNat + 1) else 0
          result := .byte rom }

/-- JMP.FAST sets the count to 2 and the address to a + 1, returns the opcode byte, and leaves the LDA latch alone
(R174, 92_eei_decisions.md D9). -/
def Obligations.JumpTriggerArmsTheFastJump : Prop :=
  (∀ (a : Offset) (s : State), exec (.jmpFast a) s = .next
      { s with
        fastJumpActive := 2, jmpOperandAddr := BitVec.ofNat 16 (a.toNat + 1), result := .byte (romByte s a) }) ∧
    ∀ (s : State) (addr : Word16) (now : Cycles), s.bankLocked = false →
      continuationAt s (windowOffset addr) = false → fastFetchOn s = true →
      romByte s (windowOffset addr) = 0x4C → next1 s (windowOffset addr) = 0 → next2 s (windowOffset addr) = 0 →
      decode (hostPacket s (.peek addr now)) = .ok (.jmpFast (windowOffset addr))

/-- JMP.CONT: count - 1, address + 1, data D[pointer 33 >> 20], pointer 33 + 0x00100000; the increment and the LDA
latch play no part (R173). -/
def Obligations.JumpContinuationServesStream33 : Prop :=
  (∀ (a : Offset) (s : State), ∃ t, exec (.jmpCont a) s = .next t ∧
      t = { s with
            ram := t.ram, fastJumpActive := s.fastJumpActive - 1, jmpOperandAddr := s.jmpOperandAddr + 1,
            result := .byte (readByte s.ram (0x0800 + (getPtr s 33).toNat / 1048576)) } ∧
      getPtr t 33 = getPtr s 33 + 0x00100000 ∧ RamSameOutside 0x0764 4 s t) ∧
    ∀ (s : State) (addr : Word16) (now : Cycles), s.bankLocked = false → s.fastJumpActive ≠ 0 →
      (windowOffset addr).setWidth 16 = s.jmpOperandAddr →
      decode (hostPacket s (.peek addr now)) = .ok (.jmpCont (windowOffset addr))

/-- DSWRITE stores val at D[pointer 32 >> 20], then adds 0x00100000 to pointer 32; no other byte and no other field
changes (R202). -/
def Obligations.DswriteStoresThroughCommstream : Prop :=
  ∀ (val : Byte) (s : State), ∃ t, exec (.dswrite val) s = .next t ∧
    t = { s with ram := t.ram, result := .nothing } ∧
    readByte t.ram (0x0800 + (getPtr s 32).toNat / 1048576) = val ∧ getPtr t 32 = getPtr s 32 + 0x00100000 ∧
    ∀ k, k ≠ 0x0800 + (getPtr s 32).toNat / 1048576 → ¬ (0x0760 ≤ k ∧ k < 0x0764) →
      readByte t.ram k = readByte s.ram k

/-- DSPTR: pointer 32 becomes old[23:20], val, twenty zero bits; nothing else changes (R203). -/
def Obligations.DsptrShiftsAByteIn : Prop :=
  ∀ (val : Byte) (s : State), ∃ t, exec (.dsptr val) s = .next t ∧
    t = { s with ram := t.ram, result := .nothing } ∧
    (getPtr t 32).toNat = (getPtr s 32).toNat / 1048576 % 16 * 268435456 + val.toNat * 1048576 ∧
    RamSameOutside 0x0760 4 s t

/-- After two DSPTR writes the pointer is v1[3:0]*2^28 + v2*2^20, whatever it was before (R208, R100). -/
def Obligations.TwoDsptrWritesLoadAnIndex : Prop :=
  ∀ (v1 v2 : Byte) (s s1 s2 : State), exec (.dsptr v1) s = .next s1 → exec (.dsptr v2) s1 = .next s2 →
    (getPtr s2 32).toNat = v1.toNat % 16 * 268435456 + v2.toNat * 1048576 ∧
      streamIndex (getPtr s2 32) = v1.toNat % 16 * 256 + v2.toNat

/-- SETMODE stores val whole and changes nothing else; fast-fetch is on when the low nibble of the mode is 0,
digital audio when the high one is (R204, R13). -/
def Obligations.SetmodeStoresAllEightBits : Prop :=
  (∀ (val : Byte) (s : State), exec (.setmode val) s = .next { s with mode := val, result := .nothing }) ∧
    ∀ s : State, (fastFetchOn s = true ↔ s.mode.toNat % 16 = 0) ∧ (digitalAudioOn s = true ↔ s.mode.toNat / 16 = 0)

/-- BANK0.W..BANK6.W select bank n whatever the data, and do nothing while bank-locked (R162, R206). -/
def Obligations.BankWriteSwitchesUnlessLocked : Prop :=
  (∀ (n : Fin 7) (val : Byte) (s : State), exec (bankWriteRow n val) s = .next
      { s with currentBank := if s.bankLocked then s.currentBank else n, result := .nothing }) ∧
    ∀ (n : Fin 7) (val : Byte) (now : Cycles) (addr : Word16) (s : State),
      (windowOffset addr).toNat = 0xFF5 + n.val →
      decode (hostPacket s (.poke addr val now)) = .ok (bankWriteRow n val)

/-- A Poke of 0x000..0xFEF, 0xFF4 or 0xFFC..0xFFF is WRITE_IGNORED, which changes nothing (R207). -/
def Obligations.OtherWritesAreIgnored : Prop :=
  (∀ (a : Offset) (val : Byte) (s : State), exec (.writeIgnored a val) s = .next { s with result := .nothing }) ∧
    ∀ (addr : Word16) (val : Byte) (now : Cycles) (s : State),
      (let a := (windowOffset addr).toNat
       a < 0xFF0 ∨ a = 0xFF4 ∨ 0xFFC ≤ a) →
      decode (hostPacket s (.poke addr val now)) = .ok (.writeIgnored (windowOffset addr) val)

/-- CALLFN 254/255, CALLFN.RUN254, CALLFN.RUN255 rebase arm_cycles and start a run with budget now - arm_cycles
inside i32 (R205, R220, R221, R222, R223, 92_eei_decisions.md D15). -/
def Obligations.CallfnStartsARunOfTheElapsedCycles : Prop :=
  ∀ (now : Cycles) (s : State) (budget : Int), budget = now.toInt - s.armCycles.toInt →
    -2147483648 ≤ budget → budget < 2147483648 →
      ∀ i ∈ [Instr.callfn 254 now, Instr.callfn 255 now, Instr.callfnRun254 now, Instr.callfnRun255 now],
        exec i s = .next { s with armCycles := now, sequencer := .running budget, result := .nothing }

/-- CALLFN 254/255, CALLFN.RUN254, CALLFN.RUN255 are refused when the budget does not fit an i32 (R222,
92_eei_decisions.md D15). -/
def Obligations.CallfnBudgetOutsideI32IsRefused : Prop :=
  ∀ (now : Cycles) (s : State) (budget : Int), budget = now.toInt - s.armCycles.toInt →
    (budget < -2147483648 ∨ 2147483648 ≤ budget) →
      ∀ i ∈ [Instr.callfn 254 now, Instr.callfn 255 now, Instr.callfnRun254 now, Instr.callfnRun255 now],
        exec i s = .refused (.budgetOutsideI32 budget)

/-- CALLFN with 0..253 and CALLFN.NOP change nothing; 254 and 255 are the run rows (R97, R205, R220). -/
def Obligations.CallfnOtherValuesDoNothing : Prop :=
  (∀ (val : Byte) (now : Cycles) (s : State), val ≠ 254 → val ≠ 255 →
      exec (.callfn val now) s = .next { s with result := .nothing } ∧
        exec (.callfnNop val) s = .next { s with result := .nothing }) ∧
    ∀ (val : Byte) (now : Cycles) (s : State), exec (.callfn val now) s = exec (decodeCallfnArg val now) s

/-- SETNOTE on voice 0..2 sets that frequency only and returns 0 (D13) (R227, 92_eei_decisions.md D13). -/
def Obligations.SetNoteSetsOneFrequency : Prop :=
  ∀ (k : Fin 3) (f : Word32) (s : State), ∃ t, exec (.setnote (BitVec.ofNat 32 k.val) f) s = .next t ∧
    t = { s with musicFrequencies := t.musicFrequencies, result := .word 0 } ∧
    ∀ j : Fin 3, t.musicFrequencies.get j = if j = k then f else s.musicFrequencies.get j

/-- RESETWAVE on voice 0..2 sets that counter to 0, changes nothing else and returns 0 (D13) (R228,
92_eei_decisions.md D13). -/
def Obligations.ResetWaveClearsOneCounter : Prop :=
  ∀ (k : Fin 3) (s : State), ∃ t, exec (.resetwave (BitVec.ofNat 32 k.val)) s = .next t ∧
    t = { s with musicCounters := t.musicCounters, result := .word 0 } ∧
    ∀ j : Fin 3, t.musicCounters.get j = if j = k then 0 else s.musicCounters.get j

/-- GETWAVEPTR on voice 0..2 returns that counter and changes nothing (R229). -/
def Obligations.GetWavePtrReturnsTheCounter : Prop :=
  ∀ (k : Fin 3) (s : State), exec (.getwaveptr (BitVec.ofNat 32 k.val)) s =
    .next { s with result := .word (s.musicCounters.get k) }

/-- SETWAVESIZE on voice 0..2 stores the low 8 bits of the size, changes nothing else and returns 0 (D13) (R230,
92_eei_decisions.md D13). -/
def Obligations.SetWaveSizeKeepsTheLowByte : Prop :=
  ∀ (k : Fin 3) (size : Word32) (s : State), ∃ t,
    exec (.setwavesize (BitVec.ofNat 32 k.val) size) s = .next t ∧
    t = { s with musicWaveformSize := t.musicWaveformSize, result := .word 0 } ∧
    ∀ j : Fin 3, (t.musicWaveformSize.get j).toNat =
      if j = k then size.toNat % 256 else (s.musicWaveformSize.get j).toNat

/-- The four callbacks are refused for a voice above 2 (D12) (R231, 92_eei_decisions.md D12). -/
def Obligations.CallbackOnUnknownVoiceIsRefused : Prop :=
  ∀ (v x : Word32) (s : State), 3 ≤ v.toNat →
    ∀ i ∈ [Instr.setnote v x, Instr.resetwave v, Instr.getwaveptr v, Instr.setwavesize v x],
      exec i s = .refused (.voiceOutOfRange v)

/-- During a run a callback with a code above 3 is refused by name (D14) (R226, R101, 92_eei_decisions.md D14). -/
def Obligations.CallbackCodeAboveThreeIsRefused : Prop :=
  ∀ (s : State) (code a1 a2 : Word32) (rest : List ArmRequest), ArmNext s (.callback code a1 a2) rest →
    3 < code.toNat → step s = .refused (.undecodable (.unknownCallbackCode code))

/-- ARMRAMREAD, ARMROMREAD, ARMRAMWRITE inside their regions: the byte read, the one byte written, nothing else
(R225, R224, R64). -/
def Obligations.ArmReadsAndWritesItsTwoRegions : Prop :=
  (∀ (k : Nat) (s : State), k < 8192 →
      exec (.armramread (BitVec.ofNat 32 (0x40000000 + k))) s = .next { s with result := .byte (readByte s.ram k) }) ∧
    (∀ (k : Nat) (s : State), k < 0x8000 →
      exec (.armromread (BitVec.ofNat 32 k)) s = .next { s with result := .byte (readByte s.image k) }) ∧
    ∀ (k : Nat) (val : Byte) (s : State), k < 8192 → ∃ t,
      exec (.armramwrite (BitVec.ofNat 32 (0x40000000 + k)) val) s = .next t ∧
      t = { s with ram := t.ram, result := .nothing } ∧ readByte t.ram k = val ∧
      ∀ j, j ≠ k → readByte t.ram j = readByte s.ram j

/-- An ARM access outside its region is an ARM fault: the run ends, nothing is rolled back (the reading of D18 in
log 13) (20_memory.md R64, 45_arm_bridge.md R225, R234, 92_eei_decisions.md D18). -/
def Obligations.ArmAccessOutsideItsRegionsEndsTheRun : Prop :=
  (∀ (x : Word32) (val : Byte) (s : State), x.toNat < 0x40000000 ∨ 0x40002000 ≤ x.toNat →
      ∀ i ∈ [Instr.armramread x, Instr.armramwrite x val],
        exec i s = .next { s with sequencer := .idle, armFaulted := true, result := .nothing }) ∧
    ∀ (x : Word32) (s : State), 0x8000 ≤ x.toNat →
      exec (.armromread x) s = .next { s with sequencer := .idle, armFaulted := true, result := .nothing }

/-- During a run: an end returns to IDLE with everything kept, an internal step changes arm_state only, no further
action hangs the machine (R223, R232, R233, R234, R225). -/
def Obligations.ArmRunEndsOrHangs : Prop :=
  (∀ (s : State) (faulted : Bool) (rest : List ArmRequest), ArmNext s (.finish faulted) rest →
      step s = .next
        { s with
          sequencer := .idle, armFaulted := s.armFaulted || faulted, armQueue := rest,
          freeCount := s.freeCount + 1, result := .nothing }) ∧
    (∀ (s : State) (armState : List Byte) (rest : List ArmRequest), ArmNext s (.internal armState) rest →
      step s = .next
        { s with armState := armState, armQueue := rest, freeCount := s.freeCount + 1, result := .nothing }) ∧
    ∀ (s : State) (budget : Int), s.sequencer = .running budget → s.armQueue = [] →
      step s = .fault .armRunNeverEnds

/-- RESET writes every field the source lists, RAM from image and RAM_INIT; image, lock (D7), arm_state (log 4) and
ghost flag (log 24) stay (R271, R272, R43, R242, 92_eei_decisions.md D4, D5, D6, D7, D26, D31). -/
def Obligations.ResetLoadsTemplateAndControlRegisters : Prop :=
  ∀ (now : Cycles) (s : State), ∃ t, exec (.reset now) s = .next t ∧
    t = { s with
          ram := t.ram, currentBank := 6, mode := 0xFF, ldaOperandAddr := 0, jmpOperandAddr := 0,
          fastJumpActive := 0, musicCounters := ⟨0, 0, 0⟩, musicFrequencies := ⟨0, 0, 0⟩,
          musicWaveformSize := ⟨27, 27, 27⟩, audioCycles := now, armCycles := now, oscRem := 0,
          fractionalClocks := 0, result := .nothing } ∧
    (∀ k, k < 2048 → readByte t.ram k = readByte s.image k) ∧
    ∀ k, k < 6144 → readByte t.ram (0x0800 + k) = readByte s.ramInit k

/-- After RESET: sizes 27, mode 0xFF, bank 6, fast-fetch off, audio additive, the stream tables from the driver
template (R273). -/
def Obligations.AfterResetModeBankAndStreamsAreInitial : Prop :=
  ∀ (now : Cycles) (s t : State), exec (.reset now) s = .next t →
    (∀ v : Fin 3, t.musicWaveformSize.get v = 27) ∧ t.mode = 0xFF ∧ t.currentBank = 6 ∧
      fastFetchOn t = false ∧ digitalAudioOn t = false ∧
      (∀ i : Fin 34, getPtr t i = readLE32 s.image (0x06E0 + 4 * i.val) ∧
        getInc t i = readLE32 s.image (0x0768 + 4 * i.val)) ∧
      (∀ j : Fin 4, readLE32 t.ram (0x07F0 + 4 * j.val) = readLE32 s.image (0x07F0 + 4 * j.val)) ∧
      ∀ (addr : Word16) (later : Cycles), t.bankLocked = false →
        decode (hostPacket t (.peek addr later)) = .ok (decodeHostRead (windowOffset addr))

/-- CYCLESRESET subtracts the offset from both baselines; no audio update, no run, nothing else (R276,
92_eei_decisions.md D28). -/
def Obligations.CyclesResetShiftsBothBaselines : Prop :=
  ∀ (offset : Cycles) (s : State), ∃ t, exec (.cyclesreset offset) s = .next t ∧
    t = { s with audioCycles := t.audioCycles, armCycles := t.armCycles, result := .nothing } ∧
    (∀ r, r = s.audioCycles.toInt - offset.toInt →
      -9223372036854775808 ≤ r → r < 9223372036854775808 → t.audioCycles.toInt = r) ∧
    (∀ r, r = s.armCycles.toInt - offset.toInt →
      -9223372036854775808 ≤ r → r < 9223372036854775808 → t.armCycles.toInt = r)

/-- After CYCLESRESET a rebased now gives the audio update, the sample and the ARM budget of the old now, in every
mode, where the baselines stay in i64 (R276, R141, R145, R150, R222). -/
def Obligations.CyclesResetKeepsLaterDeltas : Prop :=
  ∀ (offset now now' : Cycles) (s s1 t t1 : State), now'.toInt = now.toInt - offset.toInt →
    exec (.cyclesreset offset) s = .next s1 → exec (.amplitude now) s = .next t →
    exec (.amplitude now') s1 = .next t1 →
      (-9223372036854775808 ≤ s.audioCycles.toInt - offset.toInt →
        s.audioCycles.toInt - offset.toInt < 9223372036854775808 →
        t1.musicCounters = t.musicCounters ∧ t1.oscRem = t.oscRem ∧ t1.fractionalClocks = t.fractionalClocks ∧
        ((digitalAudioOn s = true ∨ ∀ v : Fin 3, (s.musicWaveformSize.get v).toNat < 32 ∧
            getWaveform s v + (t.musicCounters.get v).toNat / 2 ^ (s.musicWaveformSize.get v).toNat < 6144) →
          t1.result = t.result)) ∧
      (-9223372036854775808 ≤ s.armCycles.toInt - offset.toInt →
        s.armCycles.toInt - offset.toInt < 9223372036854775808 →
        armBudget now' s1 = armBudget now s ∧
        ∀ i i', (i, i') ∈ [(Instr.callfnRun254 now, Instr.callfnRun254 now'),
            (Instr.callfnRun255 now, Instr.callfnRun255 now'), (Instr.callfn 254 now, Instr.callfn 254 now'),
            (Instr.callfn 255 now, Instr.callfn 255 now')] →
          ∀ u, exec i s = .next u → ∃ u1, exec i' s1 = .next u1 ∧ u1.sequencer = u.sequencer)

/-- PATCH writes one image byte of the current bank at offsets from 0x40 up, and answers false below (R251,
92_eei_decisions.md D27). -/
def Obligations.PatchWritesTheCurrentBankFrom0x40Up : Prop :=
  ∀ (addr : Word16) (val : Byte) (s : State), ∃ t, exec (.patch addr val) s = .next t ∧
    let at_ := 4096 + (s.currentBank.val * 4096 + addr.toNat % 4096)
    if 0x40 ≤ addr.toNat % 4096 then
      t = { s with image := t.image, result := .flag true } ∧ readByte t.image at_ = val ∧
        ∀ k, k ≠ at_ → readByte t.image k = readByte s.image k
    else t = { s with result := .flag false }

/-- SETBANKLOCK sets the lock and nothing else; GETBANK answers the current bank and changes nothing (R252, R163,
92_eei_decisions.md D7). -/
def Obligations.BankLockAndBankQuery : Prop :=
  (∀ (b : Bool) (s : State), exec (.setbanklock b) s = .next { s with bankLocked := b, result := .nothing }) ∧
    ∀ s : State, exec .getbank s = .next { s with result := .bank s.currentBank }

/-- A step runs exactly the operation its packet decodes to, off its queue, under a fresh draw number (logs 9, 10,
11, 17); codes 0 to 3 are the callback rows (R8, R10, R98, R223, R225, R226). -/
def Obligations.StepRunsTheDecodedOperation : Prop :=
  (∀ (s : State) (r : HostRequest) (rest : List HostRequest) (i : Instr), HostNext s r rest →
      decode (hostPacket (takeHost rest s) r) = .ok i → i.wellFormed = true →
      step s = exec i { s with hostQueue := rest, freeCount := s.freeCount + 1 }) ∧
    (∀ (s : State) (code a1 a2 : Word32) (rest : List ArmRequest) (i : Instr),
      ArmNext s (.callback code a1 a2) rest → decode (callbackPacket code a1 a2) = .ok i → i.wellFormed = true →
      step s = exec i { s with armQueue := rest, freeCount := s.freeCount + 1 }) ∧
    (∀ a1 a2 : Word32, decode (callbackPacket 0 a1 a2) = .ok (.setnote a1 a2) ∧
      decode (callbackPacket 1 a1 a2) = .ok (.resetwave a1) ∧
      decode (callbackPacket 2 a1 a2) = .ok (.getwaveptr a1) ∧
      decode (callbackPacket 3 a1 a2) = .ok (.setwavesize a1 a2)) ∧
    ∀ (s : State) (x : Word32) (val : Byte) (rest : List ArmRequest),
      (ArmNext s (.ramRead x) rest →
        step s = exec (.armramread x) { s with armQueue := rest, freeCount := s.freeCount + 1 }) ∧
      (ArmNext s (.romRead x) rest →
        step s = exec (.armromread x) { s with armQueue := rest, freeCount := s.freeCount + 1 }) ∧
      (ArmNext s (.ramWrite x val) rest →
        step s = exec (.armramwrite x val) { s with armQueue := rest, freeCount := s.freeCount + 1 })

/-- Every host operation decodes to a well-formed row: a Poke of a write port to that port's, each environment
request to its own; nothing decodes ill-formed (R8, R91, R92, R94, R95, R97, R105, R200, R205). -/
def Obligations.EveryHostOperationDecodes : Prop :=
  (∀ (s : State) (r : HostRequest), ∃ i, decode (hostPacket s r) = .ok i ∧ i.wellFormed = true) ∧
    (∀ (s : State) (addr : Word16) (val : Byte) (now : Cycles),
      ((windowOffset addr).toNat = 0xFF0 → decode (hostPacket s (.poke addr val now)) = .ok (.dswrite val)) ∧
      ((windowOffset addr).toNat = 0xFF1 → decode (hostPacket s (.poke addr val now)) = .ok (.dsptr val)) ∧
      ((windowOffset addr).toNat = 0xFF2 → decode (hostPacket s (.poke addr val now)) = .ok (.setmode val)) ∧
      ((windowOffset addr).toNat = 0xFF3 → decode (hostPacket s (.poke addr val now)) = .ok
        (if val = 254 then .callfnRun254 now else if val = 255 then .callfnRun255 now else .callfnNop val))) ∧
    (∀ (s : State) (now offset : Cycles) (b : Bool) (addr : Word16) (val : Byte),
      decode (hostPacket s (.reset now)) = .ok (.reset now) ∧
      decode (hostPacket s (.cyclesReset offset)) = .ok (.cyclesreset offset) ∧
      decode (hostPacket s (.setBankLock b)) = .ok (.setbanklock b) ∧
      decode (hostPacket s (.patch addr val)) = .ok (.patch addr val) ∧
      decode (hostPacket s .getBank) = .ok .getbank) ∧
    ∀ (p : Packet) (i : Instr), decode p = .ok i → i.wellFormed = true

/-- Every Peek returns a byte; every Poke but one that starts a run completes at once (R240, R20). -/
def Obligations.EveryPeekAndPokeAnswers : Prop :=
  (∀ (s : State) (addr : Word16) (now : Cycles) (rest : List HostRequest), HostNext s (.peek addr now) rest →
      ∃ t b, step s = .next t ∧ t.result = .byte b ∧ t.sequencer = .idle) ∧
    ∀ (s : State) (addr : Word16) (val : Byte) (now : Cycles) (rest : List HostRequest),
      HostNext s (.poke addr val now) rest → (windowOffset addr ≠ 0xFF3 ∨ (val ≠ 254 ∧ val ≠ 255)) →
      ∃ t, step s = .next t ∧ t.sequencer = .idle

/-- While bank-locked a Peek returns the ROM byte and changes no device state, at every offset (R171). -/
def Obligations.LockedPeekChangesNothing : Prop :=
  ∀ (s : State) (addr : Word16) (now : Cycles) (rest : List HostRequest), HostNext s (.peek addr now) rest →
    s.bankLocked = true → step s = .next
      { s with
        hostQueue := rest, freeCount := s.freeCount + 1
        result := .byte (readByte s.image (4096 + (s.currentBank.val * 4096 + addr.toNat % 4096))) }

/-- With fast-fetch off and no jump pending an unlocked Peek returns the ROM byte, clears the addresses and switches
at hotspots only (R184, R165, R70). -/
def Obligations.PlainPeekWithFastFetchOff : Prop :=
  ∀ (s : State) (addr : Word16) (now : Cycles) (rest : List HostRequest), HostNext s (.peek addr now) rest →
    s.bankLocked = false → s.mode.toNat % 16 ≠ 0 → s.fastJumpActive = 0 → step s = .next
      { s with
        hostQueue := rest, freeCount := s.freeCount + 1, jmpOperandAddr := 0, ldaOperandAddr := 0
        currentBank := (hotspotBank? (windowOffset addr)).elim s.currentBank id
        result := .byte (readByte s.image (4096 + (s.currentBank.val * 4096 + addr.toNat % 4096))) }

/-- Two Peeks, or two Pokes, whose addresses agree in the low 12 bits have the same step (R8, R90). -/
def Obligations.AddressBitsAboveElevenAreIgnored : Prop :=
  ∀ (s : State) (addr addr' : Word16) (val : Byte) (now : Cycles) (rest : List HostRequest),
    s.sequencer = .idle → addr.toNat % 4096 = addr'.toNat % 4096 →
      step { s with hostQueue := .peek addr now :: rest } = step { s with hostQueue := .peek addr' now :: rest } ∧
        step { s with hostQueue := .poke addr val now :: rest } =
          step { s with hostQueue := .poke addr' val now :: rest }

/-- Reading A9 and then the byte i <= 0x21 after it, fast-fetch on, returns stream i's byte in place of i (R176,
R177, R181, R277). -/
def Obligations.LoadImmediatePairReadsAStream : Prop :=
  ∀ (s : State) (addr : Word16) (now now' : Cycles) (rest : List HostRequest) (i : Fin 34),
    HostNext s (.peek addr now) (.peek (addr + 1) now' :: rest) → s.bankLocked = false → fastFetchOn s = true →
    s.fastJumpActive = 0 → (windowOffset addr).toNat < 0xFFF → isHotspot (windowOffset addr) = false →
    romByte s (windowOffset addr) = 0xA9 → (romByte s (windowOffset (addr + 1))).toNat = i.val →
    ∃ s1 s2, step s = .next s1 ∧ s1.result = .byte 0xA9 ∧ step s1 = .next s2 ∧
      s2.result = .byte (displayByte s (streamIndex (getPtr s i))) ∧
      getPtr s2 i = getPtr s i + getInc s i <<< 12 ∧ s2.ldaOperandAddr = 0 ∧ s2.currentBank = s.currentBank

/-- Reading 4C 00 00 in order, fast-fetch on, returns 4C and the next two bytes of stream 33, and disarms the jump
(R173, R174, R187, R277). -/
def Obligations.FastJumpServesExactlyTwoBytes : Prop :=
  ∀ (s : State) (addr : Word16) (n0 n1 n2 : Cycles) (rest : List HostRequest),
    HostNext s (.peek addr n0) (.peek (addr + 1) n1 :: .peek (addr + 2) n2 :: rest) →
    s.bankLocked = false → fastFetchOn s = true → continuationAt s (windowOffset addr) = false →
    (windowOffset addr).toNat ≤ 0xFFD → romByte s (windowOffset addr) = 0x4C →
    romByte s (windowOffset (addr + 1)) = 0 → romByte s (windowOffset (addr + 2)) = 0 →
    ∃ s1 s2 s3, step s = .next s1 ∧ s1.result = .byte 0x4C ∧ step s1 = .next s2 ∧
      s2.result = .byte (displayByte s (streamIndex (getPtr s 33))) ∧ step s2 = .next s3 ∧
      s3.result = .byte (displayByte s (streamIndex (getPtr s 33 + 0x00100000))) ∧
      s3.fastJumpActive = 0 ∧ getPtr s3 33 = getPtr s 33 + 0x00200000 ∧ s3.ldaOperandAddr = s.ldaOperandAddr

/-- In banks 0..5 the look-ahead at 0xFFE and 0xFFF reads the first bytes of the next bank (R185,
92_eei_decisions.md D9). -/
def Obligations.LookAheadRunsIntoTheNextBank : Prop :=
  ∀ s : State, s.currentBank.val < 6 →
    let next := 4096 + (s.currentBank.val + 1) * 4096
    next2 s 0xFFE = readByte s.image next ∧ next1 s 0xFFF = readByte s.image next ∧
      next2 s 0xFFF = readByte s.image (next + 1)

/-- Only PATCH changes the image, and no operation changes a parameter or arm_state (for RESET and arm_state the
model's choice: log 4) (R7, R21, R43, R69, R78, 92_eei_decisions.md D31). -/
def Obligations.ImageChangesByPatchOnly : Prop :=
  ∀ (i : Instr) (s t : State), exec i s = .next t →
    t.ramInit = s.ramInit ∧ t.oscArith = s.oscArith ∧ t.trapFatal = s.trapFatal ∧ t.armState = s.armState ∧
      (t.image ≠ s.image → ∃ addr val, i = .patch addr val)

/-- Only SETMODE and RESET change the mode; only SETBANKLOCK changes the bank lock (RESET leaving it is the spec's
decision D7: log 5) (R20, R30, R32, R201, R252, 92_eei_decisions.md D7). -/
def Obligations.ModeChangesBySetmodeAndResetOnly : Prop :=
  ∀ (i : Instr) (s t : State), exec i s = .next t →
    (t.mode ≠ s.mode → (∃ val, i = .setmode val) ∨ ∃ now, i = .reset now) ∧
      (t.bankLocked ≠ s.bankLocked → ∃ b, i = .setbanklock b)

/-- Counters, frequencies, sizes and the audio clock change only by the operations the rules name (R36, R37, R38,
R140). -/
def Obligations.MusicRegistersHaveTheirOwnWriters : Prop :=
  ∀ (i : Instr) (s t : State), exec i s = .next t →
    (t.musicCounters ≠ s.musicCounters →
      (∃ now, i = .amplitude now) ∨ (∃ v, i = .resetwave v) ∨ ∃ now, i = .reset now) ∧
    (t.musicFrequencies ≠ s.musicFrequencies → (∃ v f, i = .setnote v f) ∨ ∃ now, i = .reset now) ∧
    (t.musicWaveformSize ≠ s.musicWaveformSize → (∃ v size, i = .setwavesize v size) ∨ ∃ now, i = .reset now) ∧
    (¬ AudioClockSame s t → (∃ now, i = .amplitude now) ∨ (∃ now, i = .reset now) ∨ ∃ off, i = .cyclesreset off)

/-- No operation but ARMRAMWRITE and RESET changes a stream increment or a waveform word (R28). -/
def Obligations.IncrementsAndWaveformsChangeByArmAndResetOnly : Prop :=
  ∀ (i : Instr) (s t : State), exec i s = .next t → (∀ now, i ≠ .reset now) →
    (∀ x val, i ≠ .armramwrite x val) → TablesSame s t

/-- The invariant holds of State.reset, and RESET at now = 0 from it answers it again (R44, R45). -/
def Obligations.InvariantHoldsAfterReset : Prop :=
  Inv State.reset ∧ exec (.reset 0) State.reset = .next State.reset

/-- Words written out from the spec's encodings decode to their operations (which of several formats a word is read
in: log 21) (R91, R92, R94, R95, R97, R98, R105). -/
def Obligations.WrittenOutWordsDecode : Prop :=
  decodeTableWord 8 0x05 = some .ds5 ∧ decodeTableWord 8 0x22 = some (.amplitude 0) ∧
    decodeTableWord 8 0xA9 = some (.ldaImm 0) ∧ decodeTableWord 8 0xFE = some (.callfnRun254 0) ∧
    decodeTableWord 16 0xFF0 = some (.dswrite 0) ∧ decodeTableWord 16 0xFF8 = some .bank3R ∧
    decodeTableWord 24 0x4C0000 = some (.jmpFast 0) ∧ decodeTableWord 32 3 = some (.setwavesize 0 0)

/-- The five binary64 operations and the divisor are those of IEEE 754, rounded to nearest, ties to even (the
rounding is the model's: log 7) (R142, R143, 92_eei_decisions.md D3). -/
def Obligations.Binary64RoundsToNearestEven : Prop :=
  (∀ (n : Int) (d : Nat), d ≠ 0 → |(n : ℚ) / d| ≤ f64Largest → NearestF64 (n / d) (f64Round n d)) ∧
    (∀ n : Int, |(n : ℚ)| ≤ f64Largest → NearestF64 n (f64OfInt n)) ∧
    (∀ x y : BitVec 64, f64Finite x → f64Finite y →
      (|f64Number x + f64Number y| ≤ f64Largest → NearestF64 (f64Number x + f64Number y) (f64Add x y)) ∧
      (|f64Number x - f64Number y| ≤ f64Largest → NearestF64 (f64Number x - f64Number y) (f64Sub x y)) ∧
      (f64Number y ≠ 0 → |f64Number x / f64Number y| ≤ f64Largest →
        NearestF64 (f64Number x / f64Number y) (f64Div x y))) ∧
    (∀ x : BitVec 64, f64Finite x → f64Floor x = ⌊f64Number x⌋) ∧
    NearestF64 (119319166666667 / 100000000) f64HostHz
end

