-- ==== Sys2Proof/Laws/Codec.lean ====
section
/-! SUPPORT. The packet layout: a number read back from its bytes, the fields of the encoder's packets, the offsets
of the hotspots. -/

namespace Sys2Proof

@[simp] theorem length_bytesOf (n v : Nat) : (bytesOf n v).length = n := by
  induction n generalizing v with
  | zero => rfl
  | succ n ih => simp [bytesOf, ih]

/-- A number that fits its bytes is read back from them. -/
theorem leNat_bytesOf (n v : Nat) : leNat (bytesOf n v) = v % 256 ^ n := by
  induction n generalizing v with
  | zero => simp [bytesOf, leNat, Nat.mod_one]
  | succ n ih =>
    have h : 256 ^ (n + 1) = 256 * 256 ^ n := Nat.pow_succ'
    rw [bytesOf, leNat, ih, BitVec.toNat_ofNat, h, Nat.mod_mul]

/-- The field that the encoder wrote at the front of a packet's rest. -/
theorem field_bytesOf (pre post : List Byte) (k n w v : Nat) (hk : pre.length = k) :
    field (pre ++ (bytesOf n v ++ post)) k n w = BitVec.ofNat w (v % 256 ^ n) := by
  subst hk
  simp [field, leNat_bytesOf]

/-- A value of `w ≤ 8n` bits written in `n` bytes is read back whole. -/
theorem ofNat_mod_bytes {w n : Nat} (x : BitVec w) (h : 2 ^ w ≤ 256 ^ n) :
    BitVec.ofNat w (x.toNat % 256 ^ n) = x := by
  rw [Nat.mod_eq_of_lt (lt_of_lt_of_le x.isLt h)]
  simp

/-- An offset that is not a given one, as numbers. -/
theorem offset_ne {a b : Offset} (h : ¬ a = b) : a.toNat ≠ b.toNat := fun e => h (BitVec.eq_of_toNat_eq e)

/-- The hotspot offset of bank `n` is `0xFF5 + n` (R93). -/
theorem hotspotBank?_some {a : Offset} {n : Fin 7} (h : hotspotBank? a = some n) : a.toNat = 0xFF5 + n.val := by
  unfold hotspotBank? at h
  split_ifs at h with h0 h1 h2 h3 h4 h5 h6
  all_goals
    cases h
    subst a
    rfl

theorem hotspotBank?_eq_none {a : Offset} (h : ¬ (0xFF5 ≤ a.toNat ∧ a.toNat ≤ 0xFFB)) : hotspotBank? a = none := by
  cases e : hotspotBank? a with
  | none => rfl
  | some n => exact absurd (hotspotBank?_some e) (by omega)

theorem hotspotBank?_of_eq {a : Offset} {n : Fin 7} (h : a.toNat = 0xFF5 + n.val) : hotspotBank? a = some n := by
  unfold hotspotBank?
  split_ifs with h0 h1 h2 h3 h4 h5 h6
  any_goals
    subst a
    exact congrArg some (Fin.ext (by simp at h; omega))
  have e0 : a.toNat ≠ 0xFF5 := offset_ne h0
  have e1 : a.toNat ≠ 0xFF6 := offset_ne h1
  have e2 : a.toNat ≠ 0xFF7 := offset_ne h2
  have e3 : a.toNat ≠ 0xFF8 := offset_ne h3
  have e4 : a.toNat ≠ 0xFF9 := offset_ne h4
  have e5 : a.toNat ≠ 0xFFA := offset_ne h5
  have e6 : a.toNat ≠ 0xFFB := offset_ne h6
  omega

theorem hotspotBank?_of_le {a : Offset} (h : 0xFF5 ≤ a.toNat) (h' : a.toNat ≤ 0xFFB) :
    hotspotBank? a = some ⟨a.toNat - 0xFF5, by omega⟩ := hotspotBank?_of_eq (by simp only; omega)

/-- The hotspot offsets are 0xFF5 to 0xFFB (R91). -/
theorem hotspotBank?_isSome (a : Offset) : (hotspotBank? a).isSome = isHotspot a := by
  by_cases h : 0xFF5 ≤ a.toNat ∧ a.toNat ≤ 0xFFB
  · rw [hotspotBank?_of_le h.1 h.2]
    simp [isHotspot, h.1, h.2]
  · rw [hotspotBank?_eq_none h]
    simpa [isHotspot] using h

/-- Enough bytes: the decoder looks at its port (one lemma instead of unfolding `decode`). -/
theorem decode_of_length {p : Packet} (h : p.port.packetLength ≤ p.bytes.length) :
    decode p = decodeAt p.port p.bytes := by
  unfold decode
  rw [if_neg (by omega)]

/-! ### What each port's packets decode to -/

/-- The offset that a packet carries after `pre`. -/
theorem field_offset (pre post : List Byte) (a : Offset) {k : Nat} (hk : pre.length = k) :
    field (pre ++ (bytesOf 2 a.toNat ++ post)) k 2 12 = a := by
  rw [field_bytesOf _ _ _ _ _ _ hk, ofNat_mod_bytes]
  decide

/-- The `now` that ends a packet. -/
theorem field_cycles (pre : List Byte) (x : Cycles) {k : Nat} (hk : pre.length = k) :
    field (pre ++ bytesOf 8 x.toNat) k 8 64 = x := by
  have h := field_bytesOf pre [] k 8 64 x.toNat hk
  rw [List.append_nil] at h
  rw [h, ofNat_mod_bytes _ (by decide)]

/-- A port whose packets are one offset. -/
theorem decode_offsetPacket {p : Port} {f : Offset → Instr} (a : Offset) (hp : p.packetLength = 2)
    (hf : ∀ bs, decodeAt p bs = .ok (f (field bs 0 2 12))) : decode ⟨p, bytesOf 2 a.toNat⟩ = .ok (f a) := by
  rw [decode_of_length (by simp [hp]), hf]
  have h := field_offset [] [] a (k := 0) rfl
  rw [List.append_nil, List.nil_append] at h
  rw [h]

theorem decode_opcodePacket (rom next1 next2 : Byte) (a : Offset) :
    decode (opcodePacket rom next1 next2 a) = decodeOpcode rom next1 next2 a := by
  unfold opcodePacket
  rw [decode_of_length (by simp [Port.packetLength])]
  have h := field_offset [rom, next1, next2] [] a (k := 3) rfl
  rw [List.append_nil] at h
  exact congrArg (decodeOpcode rom next1 next2) h

theorem decode_operandPacket (rom : Byte) (a : Offset) (now : Cycles) :
    decode (operandPacket rom a now) = .ok (decodeOperand rom a now) := by
  unfold operandPacket
  rw [decode_of_length (by simp [Port.packetLength])]
  have h1 := field_offset [rom] (bytesOf 8 now.toNat) a (k := 1) rfl
  have h2 := field_cycles (rom :: bytesOf 2 a.toNat) now (k := 3) rfl
  simp only [List.cons_append, List.nil_append] at h1 h2
  simp only [decodeAt, h1, h2]
  rfl

theorem decode_writePacket {addr : Nat} (val : Byte) (now : Cycles) (h : addr < 65536) :
    decode (writePacket addr val now) = .ok (decodeHostWrite (BitVec.ofNat 12 addr) val now) := by
  unfold writePacket
  rw [decode_of_length (by simp [Port.packetLength])]
  have h1 := field_bytesOf [] (val :: bytesOf 8 now.toNat) 0 2 12 addr rfl
  have h2 := field_cycles (bytesOf 2 addr ++ [val]) now (k := 3) (by simp)
  simp only [List.nil_append, List.append_assoc, List.singleton_append] at h1 h2
  simp only [decodeAt, h1, h2, Nat.mod_eq_of_lt (show addr < 256 ^ 2 by omega)]
  rfl

theorem decode_callfnPacket (val : Byte) (now : Cycles) :
    decode ⟨.callfnArg, val :: bytesOf 8 now.toNat⟩ = .ok (decodeCallfnArg val now) := by
  rw [decode_of_length (by simp [Port.packetLength])]
  have h := field_cycles [val] now (k := 1) rfl
  rw [List.singleton_append] at h
  simp only [decodeAt, h]
  rfl

theorem decode_callbackPacket (code a1 a2 : Word32) :
    decode (callbackPacket code a1 a2) = decodeCallback code a1 a2 := by
  unfold callbackPacket
  rw [decode_of_length (by simp [Port.packetLength])]
  have h1 := field_bytesOf [] (bytesOf 4 a1.toNat ++ bytesOf 4 a2.toNat) 0 4 32 code.toNat rfl
  have h2 := field_bytesOf (bytesOf 4 code.toNat) (bytesOf 4 a2.toNat) 4 4 32 a1.toNat (by simp)
  have h3 := field_bytesOf (bytesOf 4 code.toNat ++ bytesOf 4 a1.toNat) [] 8 4 32 a2.toNat (by simp)
  simp only [List.nil_append, List.append_nil, List.append_assoc] at h1 h2 h3
  simp only [decodeAt, h1, h2, h3, ofNat_mod_bytes _ (show 2 ^ 32 ≤ 256 ^ 4 by decide)]

end Sys2Proof
end

