-- ==== Sys2Proof/Laws/Float64.lean ====
section
/-! SUPPORT. The laws of the binary64 operations: the number of a pattern, the scaling and the rounding of a quotient,
and where the numbers lie. -/

namespace Sys2Proof.Machine

/-- `f64Value` is the number of the pattern, over a positive denominator. -/
theorem f64Value_eq (x : BitVec 64) :
    ((f64Value x).1 : ℚ) / ((f64Value x).2 : ℚ) = f64Number x ∧ 0 < (f64Value x).2 := by
  unfold f64Value f64Number f64Exponent
  generalize (x.extractLsb' 52 11).toNat = e at *
  generalize (x.extractLsb' 0 52).toNat = f
  generalize x.msb = m
  dsimp only
  have h1 : max e 1 = if e = 0 then 1 else e := by split <;> omega
  have h2 : (f + if e = 0 then 0 else 4503599627370496) = if e = 0 then f else 4503599627370496 + f := by
    split <;> omega
  rw [h1, h2]
  generalize (if e = 0 then 1 else e) = k
  generalize (if e = 0 then f else 4503599627370496 + f) = a
  generalize hs : (if m = true then (-1 : ℤ) else 1) = s
  have hs' : (if m = true then (-1 : ℚ) else 1) = s := by subst hs; split <;> simp
  rw [hs']
  by_cases h : 1075 ≤ k
  · rw [if_pos h]
    have : ((k : Int) - 1075) = ((k - 1075 : ℕ) : Int) := by omega
    rw [this, zpow_natCast]
    generalize k - 1075 = j
    refine ⟨?_, Nat.one_pos⟩
    push_cast; ring
  · rw [if_neg h]
    have : ((k : Int) - 1075) = -((1075 - k : ℕ) : Int) := by omega
    rw [this, zpow_neg, zpow_natCast]
    generalize 1075 - k = j
    refine ⟨?_, by positivity⟩
    push_cast; rfl


/-- The rounded quotient is a nearest integer, and the even one where two are as near. -/
theorem roundHalfEven_nearest (a b : ℕ) (hb : 0 < b) (k : ℤ) :
    |((roundHalfEven (a / b, a % b, b) : ℕ) : ℚ) - (a : ℚ) / b| ≤ |(k : ℚ) - (a : ℚ) / b| ∧
    (|((roundHalfEven (a / b, a % b, b) : ℕ) : ℚ) - (a : ℚ) / b| = |(k : ℚ) - (a : ℚ) / b| →
      k ≠ (roundHalfEven (a / b, a % b, b) : ℕ) → roundHalfEven (a / b, a % b, b) % 2 = 0) := by
  have hab : b * (a / b) + a % b = a := Nat.div_add_mod a b
  have hlt : a % b < b := Nat.mod_lt _ hb
  have hbQ : (0 : ℚ) < b := by exact_mod_cast hb
  have habs : ∀ j : ℤ, |(j : ℚ) - (a : ℚ) / b| = ((|j * b - a| : ℤ) : ℚ) / b := by
    intro j
    rw [Int.cast_abs, ← abs_of_pos hbQ, ← abs_div, abs_of_pos hbQ]
    congr 1; push_cast; field_simp
  have hQ := habs ((roundHalfEven (a / b, a % b, b) : ℕ) : ℤ)
  rw [Int.cast_natCast] at hQ
  rw [hQ, habs k, div_le_div_iff_of_pos_right hbQ, Int.cast_le, div_left_inj' hbQ.ne', Int.cast_inj]
  unfold roundHalfEven
  dsimp only
  generalize a / b = q at *
  generalize a % b = r at *
  have e1 : (a : ℤ) = b * q + r := by exact_mod_cast hab.symm
  rw [e1]
  obtain ⟨m, hm⟩ : ∃ m : ℤ, k = q + m := ⟨k - q, by ring⟩
  subst hm
  have hk : (((q : ℤ) + m) * b - (b * q + r)) = m * b - r := by ring
  rw [hk]
  have hm : m ≤ 0 ∨ m = 1 ∨ 2 ≤ m := by omega
  have hmul1 : m ≤ 0 → m * b ≤ 0 := fun h => mul_nonpos_of_nonpos_of_nonneg h (by positivity)
  have hmul0 : m ≤ -1 → m * b ≤ -b := fun h => by nlinarith
  have hmul2 : 2 ≤ m → 2 * b ≤ m * b := fun h => by nlinarith
  have hmule : m = 1 → m * b = b := fun h => by rw [h]; ring
  have hmulz : m = 0 → m * b = 0 := fun h => by rw [h]; ring
  have hq0 : ((q : ℤ) * b - (b * q + r)) = -r := by ring
  have hq1 : (((q + 1 : ℕ) : ℤ) * b - (b * q + r)) = b - r := by push_cast; ring
  generalize (m * b : ℤ) = w at *
  split
  · rw [hq0]; simp only [Int.abs_eq_natAbs]; omega
  · split
    · rw [hq1]; push_cast; simp only [Int.abs_eq_natAbs]; omega
    · rcases Nat.mod_two_eq_zero_or_one q with h | h
      · rw [h, Nat.add_zero, hq0]; simp only [Int.abs_eq_natAbs]; omega
      · rw [h, hq1]; push_cast; simp only [Int.abs_eq_natAbs]; omega

/-- A scaled quotient is quotient and remainder of two naturals whose ratio is `n / d * 2 ^ sh`. -/
theorem scaledQuotient_eq (n d : ℕ) (hd : 0 < d) (sh : ℤ) : ∃ a b : ℕ, 0 < b ∧
    scaledQuotient n d sh = (a / b, a % b, b) ∧ (a : ℚ) / b = (n : ℚ) / d * 2 ^ sh := by
  unfold scaledQuotient
  by_cases h : 0 ≤ sh
  · refine ⟨n * 2 ^ sh.toNat, d, hd, by simp [h], ?_⟩
    obtain ⟨j, rfl⟩ := Int.eq_ofNat_of_zero_le h
    simp; ring
  · refine ⟨n, d * 2 ^ (-sh).toNat, by positivity, by simp [h], ?_⟩
    obtain ⟨j, hj⟩ := Int.eq_ofNat_of_zero_le (show 0 ≤ -sh by omega)
    have : sh = -(j : ℤ) := by omega
    subst this
    simp [zpow_neg]
    field_simp

/-- The scaled ratio is below 2^53, and at least 2^52 where the scaling is not the subnormal one. -/
theorem f64Scale_bounds (n d : ℕ) (hn : 0 < n) (hd : 0 < d) :
    f64Scale n d ≤ 1074 ∧ (n : ℚ) / d * 2 ^ f64Scale n d < 2 ^ 53 ∧
    (f64Scale n d < 1074 → 2 ^ 52 ≤ (n : ℚ) / d * 2 ^ f64Scale n d) := by
  have hdQ : (0 : ℚ) < d := by exact_mod_cast hd
  have hnQ : (0 : ℚ) < n := by exact_mod_cast hn
  have n1 : (2 : ℚ) ^ n.log2 ≤ n := by exact_mod_cast Nat.log2_self_le hn.ne'
  have n2 : (n : ℚ) < 2 ^ (n.log2 + 1) := by exact_mod_cast Nat.lt_log2_self
  have d1 : (2 : ℚ) ^ d.log2 ≤ d := by exact_mod_cast Nat.log2_self_le hd.ne'
  have d2 : (d : ℚ) < 2 ^ (d.log2 + 1) := by exact_mod_cast Nat.lt_log2_self
  generalize hL : (52 : ℤ) - ((n.log2 : ℤ) - (d.log2 : ℤ)) = L
  have e : (2 : ℚ) ^ L = 2 ^ 52 * 2 ^ d.log2 / 2 ^ n.log2 := by
    have : L = ((52 + d.log2 : ℕ) : ℤ) - (n.log2 : ℕ) := by push_cast; omega
    rw [this, zpow_sub₀ (by norm_num), zpow_natCast, zpow_natCast, pow_add]
  have lo : (2 : ℚ) ^ 51 < (n : ℚ) / d * 2 ^ L := by
    rw [e, div_mul_div_comm, lt_div_iff₀ (by positivity)]
    rw [pow_succ] at d2
    have := mul_lt_mul_of_pos_right d2 (show (0:ℚ) < 2 ^ n.log2 by positivity)
    have h2 := mul_le_mul_of_nonneg_left n1 (show (0:ℚ) ≤ 2 ^ d.log2 by positivity)
    linarith [this, h2]
  have hi : (n : ℚ) / d * 2 ^ L < 2 ^ 53 := by
    rw [e, div_mul_div_comm, div_lt_iff₀ (by positivity)]
    rw [pow_succ] at n2
    have := mul_lt_mul_of_pos_right n2 (show (0:ℚ) < 2 ^ d.log2 by positivity)
    have h2 := mul_le_mul_of_nonneg_right d1 (show (0:ℚ) ≤ 2 ^ n.log2 by positivity)
    linarith [this, h2]
  have mono : ∀ x y : ℤ, x ≤ y → (n : ℚ) / d * 2 ^ x ≤ (n : ℚ) / d * 2 ^ y := fun x y h =>
    mul_le_mul_of_nonneg_left (zpow_le_zpow_right₀ (by norm_num) h) (by positivity)
  obtain ⟨a, b, hb, hsq, hab⟩ := scaledQuotient_eq n d hd L
  have hdef : f64Scale n d = min (if a / b < 4503599627370496 then L + 1 else L) 1074 := by
    unfold f64Scale; simp only [hL, hsq]
  have step : (n : ℚ) / d * 2 ^ (L + 1) = 2 * ((n : ℚ) / d * 2 ^ L) := by
    rw [zpow_add₀ (by norm_num)]; ring
  have hbQ : (0 : ℚ) < b := by exact_mod_cast hb
  have main : ∃ M, f64Scale n d = min M 1074 ∧ (n : ℚ) / d * 2 ^ M < 2 ^ 53 ∧ 2 ^ 52 ≤ (n : ℚ) / d * 2 ^ M := by
    refine ⟨_, hdef, ?_⟩
    split
    · rename_i h
      rw [Nat.div_lt_iff_lt_mul hb] at h
      have : (a : ℚ) / b < 2 ^ 52 := by
        rw [div_lt_iff₀ hbQ]; norm_num; exact_mod_cast h
      rw [step, ← hab]
      rw [← hab] at lo
      constructor <;> linarith
    · rename_i h
      have h := Nat.not_lt.mp h
      rw [Nat.le_div_iff_mul_le hb] at h
      have : (2 : ℚ) ^ 52 ≤ (a : ℚ) / b := by
        rw [le_div_iff₀ hbQ]; norm_num; exact_mod_cast h
      rw [← hab] at hi ⊢
      exact ⟨hi, this⟩
  obtain ⟨M, hM, m1, m2⟩ := main
  rw [hM]
  refine ⟨min_le_right _ _, lt_of_le_of_lt (mono _ _ (min_le_left _ _)) m1, fun h => ?_⟩
  rwa [min_eq_left (by omega)]

/-- The fields of a pattern made of a sign and a magnitude. -/
theorem pattern_fields (sg : Bool) (M : ℕ) (hM : M < 9223372036854775808) :
    let x := BitVec.ofNat 64 ((if sg then 9223372036854775808 else 0) + M)
    x.msb = sg ∧ f64Exponent x = M / 4503599627370496 ∧ (x.extractLsb' 0 52).toNat = M % 4503599627370496 ∧
      x.getLsbD 0 = decide (M % 2 = 1) := by
  have hx : (BitVec.ofNat 64 ((if sg then 9223372036854775808 else 0) + M)).toNat =
      (if sg then 9223372036854775808 else 0) + M := by
    rw [BitVec.toNat_ofNat]; apply Nat.mod_eq_of_lt; split <;> omega
  dsimp only
  refine ⟨?_, ?_, ?_, ?_⟩
  · rw [BitVec.msb_eq_decide, hx]; cases sg <;> (simp; try omega)
  · rw [f64Exponent, BitVec.extractLsb'_toNat, hx, Nat.shiftRight_eq_div_pow]
    cases sg <;> (simp; try omega)
  · rw [BitVec.extractLsb'_toNat, hx, Nat.shiftRight_eq_div_pow]
    cases sg <;> (simp; try omega)
  · rw [BitVec.getLsbD, hx, Nat.testBit_zero]; cases sg <;> (simp; try omega)

/-- The number of the pattern that `f64Round` builds: a significand may reach 2^53, the next power of two. -/
theorem number_of_magnitude (sg : Bool) (sh : ℤ) (q : ℕ) (h1 : sh ≤ 1074) (hq : q ≤ 9007199254740992)
    (h2 : sh < 1074 → 4503599627370496 ≤ q)
    (hM : (1074 - sh).toNat * 4503599627370496 + q < 2047 * 4503599627370496) :
    f64Number (BitVec.ofNat 64
        ((if sg then 9223372036854775808 else 0) + ((1074 - sh).toNat * 4503599627370496 + q))) =
      (if sg then -1 else 1) * q * 2 ^ (-sh) := by
  obtain ⟨p1, p2, p3, -⟩ := pattern_fields sg ((1074 - sh).toNat * 4503599627370496 + q) (by omega)
  unfold f64Number
  rw [p1, p2, p3]
  obtain ⟨j, hj⟩ := Int.eq_ofNat_of_zero_le (show 0 ≤ 1074 - sh by omega)
  have : sh = 1074 - (j : ℤ) := by omega
  subst this
  have hjn : (1074 - (1074 - (j : ℤ))).toNat = j := by omega
  rw [hjn] at *
  generalize (if sg = true then (-1 : ℚ) else 1) = s
  rcases Nat.lt_or_ge q 4503599627370496 with hlt | hge
  · have : j = 0 := by omega
    subst this
    have e1 : (0 * 4503599627370496 + q) / 4503599627370496 = 0 := by omega
    have e2 : (0 * 4503599627370496 + q) % 4503599627370496 = q := by omega
    rw [e1, e2, if_pos rfl, Nat.add_zero]
    norm_num
  · rcases Nat.lt_or_ge q 9007199254740992 with h3 | h3
    · have e1 : (j * 4503599627370496 + q) / 4503599627370496 = j + 1 := by omega
      have e2 : (j * 4503599627370496 + q) % 4503599627370496 + 4503599627370496 = q := by omega
      rw [e1, if_neg (by omega), e2, show max (j + 1) 1 = j + 1 by omega]
      congr 2; push_cast; ring
    · have : q = 9007199254740992 := by omega
      subst this
      have e1 : (j * 4503599627370496 + 9007199254740992) / 4503599627370496 = j + 2 := by omega
      have e2 : (j * 4503599627370496 + 9007199254740992) % 4503599627370496 + 4503599627370496 =
          4503599627370496 := by omega
      rw [e1, if_neg (by omega), e2, show max (j + 2) 1 = j + 2 by omega]
      have : (((j + 2 : ℕ) : ℤ) - 1075) = -(1074 - (j : ℤ)) + 1 := by push_cast; ring
      rw [this, zpow_add₀ (by norm_num)]
      push_cast; ring

/-- Every number is a multiple of `2 ^ (-sh)`, or smaller than any significand of that scaling. -/
theorem number_on_grid (y : BitVec 64) (sh : ℤ) (hsh : sh ≤ 1074) :
    (∃ k : ℤ, f64Number y * 2 ^ sh = k) ∨ (sh < 1074 ∧ |f64Number y * 2 ^ sh| < 2 ^ 52) := by
  unfold f64Number
  have ha : ((y.extractLsb' 0 52).toNat + if f64Exponent y = 0 then 0 else 4503599627370496) < 9007199254740992 := by
    have := (y.extractLsb' 0 52).isLt
    split <;> omega
  generalize ((y.extractLsb' 0 52).toNat + if f64Exponent y = 0 then 0 else 4503599627370496) = a at *
  generalize hE : max (f64Exponent y) 1 = E
  have hE1 : 1 ≤ E := by omega
  have hs : |(if y.msb then (-1 : ℚ) else 1)| = 1 := by split <;> simp
  have hsi : ∃ z : ℤ, (if y.msb then (-1 : ℚ) else 1) = z := by
    split
    exacts [⟨-1, by simp⟩, ⟨1, by simp⟩]
  generalize (if y.msb then (-1 : ℚ) else 1) = s at *
  rw [mul_assoc, ← zpow_add₀ (by norm_num)]
  by_cases h : 0 ≤ (E : ℤ) - 1075 + sh
  · left
    obtain ⟨j, hj⟩ := Int.eq_ofNat_of_zero_le h
    obtain ⟨z, rfl⟩ := hsi
    exact ⟨z * a * 2 ^ j, by rw [hj, zpow_natCast]; push_cast; ring⟩
  · right
    refine ⟨by omega, ?_⟩
    rw [abs_mul, abs_mul, hs, one_mul, abs_of_nonneg (by positivity), abs_of_nonneg (by positivity)]
    have h1 : (2 : ℚ) ^ ((E : ℤ) - 1075 + sh) ≤ 2 ^ (-1 : ℤ) := zpow_le_zpow_right₀ (by norm_num) (by omega)
    have h2 : (a : ℚ) < 9007199254740992 := by exact_mod_cast ha
    have h3 : (0 : ℚ) ≤ a := by positivity
    have h4 := mul_le_mul_of_nonneg_left h1 h3
    norm_num at h4 ⊢
    linarith

end Sys2Proof.Machine
end

