-- ==== Sys2Proof/Laws/Memory.lean ====
section
/-! SUPPORT. The laws of memories: read after write, every other byte as before, the canonical form is kept; and the
same for the little-endian words of driver RAM. -/

namespace Sys2Proof.Machine

/-! ### One byte -/

theorem readByte_filter_same (m : Memory) (k : Nat) : readByte (m.filter fun c => c.1 ≠ k) k = unlistedByte := by
  induction m with
  | nil => rfl
  | cons c m ih =>
    rw [List.filter_cons]
    split
    · rename_i h
      have h' : c.1 ≠ k := by simpa using h
      simpa [readByte, h'] using ih
    · exact ih

theorem readByte_filter_other (m : Memory) {k j : Nat} (h : j ≠ k) :
    readByte (m.filter fun c => c.1 ≠ k) j = readByte m j := by
  induction m with
  | nil => rfl
  | cons c m ih =>
    rw [List.filter_cons]
    split
    · simp only [readByte, ih]
    · rename_i hc
      have hk : c.1 = k := by simpa using hc
      have : c.1 ≠ j := fun e => h (by omega)
      simpa [readByte, this] using ih

theorem readByte_consByte_other (m : Memory) {k j : Nat} (v : Byte) (h : j ≠ k) :
    readByte (consByte k v m) j = readByte m j := by
  unfold consByte
  split
  · rfl
  · simp [readByte, Ne.symm h]

theorem readByte_consByte_same (m : Memory) (k : Nat) (v : Byte) (h : readByte m k = unlistedByte) :
    readByte (consByte k v m) k = v := by
  unfold consByte
  split
  · simp_all
  · simp [readByte]

theorem readByte_insertByte_same (m : Memory) (k : Nat) (v : Byte) (h : ∀ c ∈ m, c.1 ≠ k) :
    readByte (insertByte m k v) k = v := by
  have hr : ∀ m : Memory, (∀ c ∈ m, c.1 ≠ k) → readByte m k = unlistedByte := by
    intro m h
    induction m with
    | nil => rfl
    | cons c m ih => simp_all [readByte]
  induction m with
  | nil => exact readByte_consByte_same [] k v rfl
  | cons c m ih =>
    simp only [insertByte]
    split
    · exact readByte_consByte_same _ k v (hr _ h)
    · simpa [readByte, h c List.mem_cons_self] using ih fun d hd => h d (List.mem_cons_of_mem _ hd)

theorem readByte_insertByte_other (m : Memory) {k j : Nat} (v : Byte) (h : j ≠ k) :
    readByte (insertByte m k v) j = readByte m j := by
  induction m with
  | nil => exact readByte_consByte_other [] v h
  | cons c m ih =>
    simp only [insertByte]
    split
    · exact readByte_consByte_other _ v h
    · simp only [readByte, ih]

/-- A byte reads as it was written. -/
@[simp] theorem readByte_writeByte_same (m : Memory) (k : Nat) (v : Byte) : readByte (writeByte m k v) k = v :=
  readByte_insertByte_same _ k v fun _ hc => by simpa using (List.mem_filter.mp hc).2

/-- A write leaves every other byte alone. -/
theorem readByte_writeByte_other (m : Memory) {k j : Nat} (v : Byte) (h : j ≠ k) :
    readByte (writeByte m k v) j = readByte m j := by
  rw [writeByte, readByte_insertByte_other _ v h, readByte_filter_other m h]

/-- One write, all reads. -/
theorem readByte_writeByte (m : Memory) (k j : Nat) (v : Byte) :
    readByte (writeByte m k v) j = if j = k then v else readByte m j := by
  by_cases h : j = k
  · subst h; simp
  · simp [h, readByte_writeByte_other m v h]

/-! ### The canonical form -/

theorem wfFrom_mono {size lo lo' : Nat} {m : Memory} (h : wfFrom size lo m = true) (hl : lo' ≤ lo) :
    wfFrom size lo' m = true := by
  cases m with
  | nil => rfl
  | cons c m =>
    simp [wfFrom] at h ⊢
    exact ⟨⟨⟨by omega, h.1.1.2⟩, h.1.2⟩, h.2⟩

theorem wfFrom_filter {size lo : Nat} {m : Memory} (p : Host.Cell → Bool) (h : wfFrom size lo m = true) :
    wfFrom size lo (m.filter p) = true := by
  induction m generalizing lo with
  | nil => rfl
  | cons c m ih =>
    simp [wfFrom] at h
    rw [List.filter_cons]
    split
    · simp [wfFrom, h, ih h.2]
    · exact wfFrom_mono (ih h.2) (by omega)

theorem wfFrom_consByte {size lo k : Nat} {m : Memory} (v : Byte) (h : wfFrom size (k + 1) m = true) (hlo : lo ≤ k)
    (hk : k < size) : wfFrom size lo (consByte k v m) = true := by
  unfold consByte
  split
  · exact wfFrom_mono h (by omega)
  · simp_all [wfFrom]

theorem wfFrom_insertByte {size lo k : Nat} {m : Memory} (v : Byte) (h : wfFrom size lo m = true) (hlo : lo ≤ k)
    (hk : k < size) (hm : ∀ c ∈ m, c.1 ≠ k) : wfFrom size lo (insertByte m k v) = true := by
  induction m generalizing lo with
  | nil => exact wfFrom_consByte v rfl hlo hk
  | cons c m ih =>
    have hc : c.1 ≠ k := hm c List.mem_cons_self
    simp only [insertByte]
    split
    · refine wfFrom_consByte v ?_ hlo hk
      simp [wfFrom] at h ⊢
      exact ⟨⟨⟨by omega, h.1.1.2⟩, h.1.2⟩, h.2⟩
    · simp [wfFrom] at h
      have := ih h.2 (by omega) fun d hd => hm d (List.mem_cons_of_mem _ hd)
      simp [wfFrom, h, this]

/-- A write inside the memory keeps the canonical form. -/
theorem wf_writeByte {size k : Nat} {m : Memory} {v : Byte} (h : Memory.wf size m = true) (hk : k < size) :
    Memory.wf size (writeByte m k v) = true :=
  wfFrom_insertByte v (wfFrom_filter _ h) (Nat.zero_le _) hk fun _ hc => by simpa using (List.mem_filter.mp hc).2

/-- So does a run of writes. -/
theorem wf_writeBytes {size : Nat} (bs : List Byte) {k : Nat} {m : Memory} (h : Memory.wf size m = true)
    (hk : k + bs.length ≤ size) : Memory.wf size (writeBytes m k bs) = true := by
  induction bs generalizing k m with
  | nil => exact h
  | cons b bs ih =>
    simp at hk
    exact ih (wf_writeByte h (by omega)) (by omega)

/-- So does a table word. -/
theorem wf_writeLE32 {size o : Nat} {m : Memory} (v : Word32) (h : Memory.wf size m = true) (ho : o + 3 < size) :
    Memory.wf size (writeLE32 m o v) = true := by
  unfold writeLE32
  exact wf_writeByte (wf_writeByte (wf_writeByte (wf_writeByte h (by omega)) (by omega)) (by omega)) ho

theorem wfFrom_append {size mid lo : Nat} {m m' : Memory} (h : wfFrom mid lo m = true)
    (h' : wfFrom size mid m' = true) (hm : mid ≤ size) (hl : lo ≤ mid) : wfFrom size lo (m ++ m') = true := by
  induction m generalizing lo with
  | nil => exact wfFrom_mono h' hl
  | cons c m ih =>
    simp [wfFrom] at h
    have := ih h.2 (by omega)
    simp [wfFrom, h, this]
    omega

theorem wfFrom_filter_below {size lo bound : Nat} {m : Memory} (h : wfFrom size lo m = true) :
    wfFrom bound lo (m.filter fun c => c.1 < bound) = true := by
  induction m generalizing lo with
  | nil => rfl
  | cons c m ih =>
    simp [wfFrom] at h
    rw [List.filter_cons]
    split
    · rename_i hb
      have hb' : c.1 < bound := by simpa using hb
      simp [wfFrom, h, hb', ih h.2]
    · exact wfFrom_mono (ih h.2) (by omega)

theorem wfFrom_shift {size lo d : Nat} {m : Memory} (h : wfFrom size lo m = true) :
    wfFrom (size + d) (lo + d) (m.map fun c => (c.1 + d, c.2)) = true := by
  induction m generalizing lo with
  | nil => rfl
  | cons c m ih =>
    simp [wfFrom] at h
    have := ih h.2
    simp [wfFrom, h, show c.1 + d + 1 = c.1 + 1 + d by omega, this]

/-- RAM after a reset is in canonical form when the image and `RAM_INIT` are. -/
theorem wf_resetRam {image ramInit : Memory} {n k : Nat} (h : Memory.wf n image = true)
    (h' : Memory.wf k ramInit = true) : Memory.wf Config.ramSize (resetRam image ramInit) = true := by
  have hi : wfFrom Config.driverSize 0 (image.filter fun c => c.1 < Config.driverSize) = true :=
    wfFrom_filter_below h
  have hr : wfFrom Config.displaySize 0 (ramInit.filter fun c => c.1 < Config.displaySize) = true :=
    wfFrom_filter_below h'
  exact wfFrom_append hi (wfFrom_shift (d := Config.driverSize) hr) (by decide) (Nat.zero_le _)

/-! ### Reset RAM -/

theorem readByte_append (m m' : Memory) (k : Nat) (h : ∀ c ∈ m, c.1 ≠ k) : readByte (m ++ m') k = readByte m' k := by
  induction m with
  | nil => rfl
  | cons c m ih =>
    have := h c (by simp)
    simpa [readByte, this] using ih fun d hd => h d (by simp [hd])

theorem readByte_append_left (m m' : Memory) (k : Nat) (h : ∀ c ∈ m', c.1 ≠ k) :
    readByte (m ++ m') k = readByte m k := by
  induction m with
  | nil =>
    induction m' with
    | nil => rfl
    | cons c m' ih =>
      have := h c (by simp)
      simpa [readByte, this] using ih fun d hd => h d (by simp [hd])
  | cons c m ih =>
    by_cases hc : c.1 = k
    · simp [readByte, hc]
    · simpa [readByte, hc] using ih

theorem readByte_filter_below (m : Memory) {bound k : Nat} (h : k < bound) :
    readByte (m.filter fun c => c.1 < bound) k = readByte m k := by
  induction m with
  | nil => rfl
  | cons c m ih =>
    rw [List.filter_cons]
    split
    · simp only [readByte, ih]
    · rename_i hb
      have : c.1 ≠ k := by
        intro e
        apply hb
        simpa [e] using h
      simpa [readByte, this] using ih

theorem readByte_shift (m : Memory) (d k : Nat) :
    readByte (m.map fun c => (c.1 + d, c.2)) (k + d) = readByte m k := by
  induction m with
  | nil => rfl
  | cons c m ih =>
    by_cases hc : c.1 = k
    · simp [readByte, hc]
    · simpa [readByte, hc] using ih

/-- Driver RAM after a reset is the driver template (R271). -/
theorem readByte_resetRam_driver (image ramInit : Memory) {k : Nat} (h : k < Config.driverSize) :
    readByte (resetRam image ramInit) k = readByte image k := by
  unfold resetRam
  rw [readByte_append_left, readByte_filter_below _ h]
  intro c hc
  simp only [List.mem_map] at hc
  obtain ⟨d, _, rfl⟩ := hc
  simp only
  omega

/-- Display RAM after a reset is `RAM_INIT` (R271). -/
theorem readByte_resetRam_display (image ramInit : Memory) {k : Nat} (h : k < Config.displaySize) :
    readByte (resetRam image ramInit) (displayOffset k) = readByte ramInit k := by
  unfold resetRam displayOffset
  rw [readByte_append, Nat.add_comm, readByte_shift, readByte_filter_below _ h]
  intro c hc
  simp at hc
  omega

/-! ### Table words -/

theorem readByte_writeLE32 (m : Memory) (o j : Nat) (v : Word32) :
    readByte (writeLE32 m o v) j =
      if j = o + 3 then v.extractLsb' 24 8
      else if j = o + 2 then v.extractLsb' 16 8
      else if j = o + 1 then v.extractLsb' 8 8
      else if j = o then v.extractLsb' 0 8
      else readByte m j := by
  simp [writeLE32, readByte_writeByte]

theorem readByte_writeLE32_other (m : Memory) {o j : Nat} (v : Word32) (h : ¬ (o ≤ j ∧ j < o + 4)) :
    readByte (writeLE32 m o v) j = readByte m j := by
  rw [readByte_writeLE32]
  have h0 : j ≠ o := by omega
  have h1 : j ≠ o + 1 := by omega
  have h2 : j ≠ o + 2 := by omega
  have h3 : j ≠ o + 3 := by omega
  simp [h0, h1, h2, h3]

theorem bytes_append (v : Word32) :
    v.extractLsb' 24 8 ++ v.extractLsb' 16 8 ++ v.extractLsb' 8 8 ++ v.extractLsb' 0 8 = v := by
  rw [BitVec.extractLsb'_append_extractLsb'_eq_extractLsb' (by rfl),
    BitVec.extractLsb'_append_extractLsb'_eq_extractLsb' (by rfl),
    BitVec.extractLsb'_append_extractLsb'_eq_extractLsb' (by rfl)]
  simp

/-- A table word reads as it was written. -/
@[simp] theorem readLE32_writeLE32_same (m : Memory) (o : Nat) (v : Word32) :
    readLE32 (writeLE32 m o v) o = v := by
  unfold readLE32
  simp only [readByte_writeLE32]
  simpa using bytes_append v

/-- A word that no write touches reads as before. -/
theorem readLE32_congr {m m' : Memory} {o : Nat} (h : ∀ j, o ≤ j → j < o + 4 → readByte m' j = readByte m j) :
    readLE32 m' o = readLE32 m o := by
  unfold readLE32
  rw [h o (by omega) (by omega), h (o + 1) (by omega) (by omega), h (o + 2) (by omega) (by omega),
    h (o + 3) (by omega) (by omega)]

theorem readLE32_writeLE32_other (m : Memory) {o o' : Nat} (v : Word32) (h : o' + 4 ≤ o ∨ o + 4 ≤ o') :
    readLE32 (writeLE32 m o v) o' = readLE32 m o' :=
  readLE32_congr fun _ _ _ => readByte_writeLE32_other m v (by omega)

theorem readLE32_writeByte_other (m : Memory) {k o : Nat} (v : Byte) (h : k < o ∨ o + 4 ≤ k) :
    readLE32 (writeByte m k v) o = readLE32 m o :=
  readLE32_congr fun _ _ _ => readByte_writeByte_other m v (by omega)

end Sys2Proof.Machine
end

