-- ==== Sys2Proof/Laws/State.lean ====
section
/-! SUPPORT. One lemma per field per state update, true by definition, so that no proof unfolds a record update. -/

namespace Sys2Proof.Machine

/-! ### `answer` -/

@[simp] theorem answer_image (r : Result) (s : State) : (answer r s).image = s.image := rfl
@[simp] theorem answer_ram (r : Result) (s : State) : (answer r s).ram = s.ram := rfl
@[simp] theorem answer_currentBank (r : Result) (s : State) : (answer r s).currentBank = s.currentBank := rfl
@[simp] theorem answer_mode (r : Result) (s : State) : (answer r s).mode = s.mode := rfl
@[simp] theorem answer_ldaOperandAddr (r : Result) (s : State) : (answer r s).ldaOperandAddr = s.ldaOperandAddr := rfl
@[simp] theorem answer_jmpOperandAddr (r : Result) (s : State) : (answer r s).jmpOperandAddr = s.jmpOperandAddr := rfl
@[simp] theorem answer_fastJumpActive (r : Result) (s : State) : (answer r s).fastJumpActive = s.fastJumpActive := rfl
@[simp] theorem answer_musicCounters (r : Result) (s : State) : (answer r s).musicCounters = s.musicCounters := rfl
@[simp] theorem answer_musicFrequencies (r : Result) (s : State) : (answer r s).musicFrequencies = s.musicFrequencies := rfl
@[simp] theorem answer_musicWaveformSize (r : Result) (s : State) : (answer r s).musicWaveformSize = s.musicWaveformSize := rfl
@[simp] theorem answer_audioCycles (r : Result) (s : State) : (answer r s).audioCycles = s.audioCycles := rfl
@[simp] theorem answer_armCycles (r : Result) (s : State) : (answer r s).armCycles = s.armCycles := rfl
@[simp] theorem answer_oscRem (r : Result) (s : State) : (answer r s).oscRem = s.oscRem := rfl
@[simp] theorem answer_bankLocked (r : Result) (s : State) : (answer r s).bankLocked = s.bankLocked := rfl
@[simp] theorem answer_armState (r : Result) (s : State) : (answer r s).armState = s.armState := rfl
@[simp] theorem answer_ramInit (r : Result) (s : State) : (answer r s).ramInit = s.ramInit := rfl
@[simp] theorem answer_oscArith (r : Result) (s : State) : (answer r s).oscArith = s.oscArith := rfl
@[simp] theorem answer_trapFatal (r : Result) (s : State) : (answer r s).trapFatal = s.trapFatal := rfl
@[simp] theorem answer_fractionalClocks (r : Result) (s : State) : (answer r s).fractionalClocks = s.fractionalClocks := rfl
@[simp] theorem answer_sequencer (r : Result) (s : State) : (answer r s).sequencer = s.sequencer := rfl
@[simp] theorem answer_armFaulted (r : Result) (s : State) : (answer r s).armFaulted = s.armFaulted := rfl
@[simp] theorem answer_hostQueue (r : Result) (s : State) : (answer r s).hostQueue = s.hostQueue := rfl
@[simp] theorem answer_armQueue (r : Result) (s : State) : (answer r s).armQueue = s.armQueue := rfl
@[simp] theorem answer_result (r : Result) (s : State) : (answer r s).result = r := rfl
@[simp] theorem answer_freeCount (r : Result) (s : State) : (answer r s).freeCount = s.freeCount := rfl

/-! ### `clearJump` -/

@[simp] theorem clearJump_image (s : State) : (clearJump s).image = s.image := rfl
@[simp] theorem clearJump_ram (s : State) : (clearJump s).ram = s.ram := rfl
@[simp] theorem clearJump_currentBank (s : State) : (clearJump s).currentBank = s.currentBank := rfl
@[simp] theorem clearJump_mode (s : State) : (clearJump s).mode = s.mode := rfl
@[simp] theorem clearJump_ldaOperandAddr (s : State) : (clearJump s).ldaOperandAddr = s.ldaOperandAddr := rfl
@[simp] theorem clearJump_jmpOperandAddr (s : State) : (clearJump s).jmpOperandAddr = 0 := rfl
@[simp] theorem clearJump_fastJumpActive (s : State) : (clearJump s).fastJumpActive = s.fastJumpActive := rfl
@[simp] theorem clearJump_musicCounters (s : State) : (clearJump s).musicCounters = s.musicCounters := rfl
@[simp] theorem clearJump_musicFrequencies (s : State) : (clearJump s).musicFrequencies = s.musicFrequencies := rfl
@[simp] theorem clearJump_musicWaveformSize (s : State) : (clearJump s).musicWaveformSize = s.musicWaveformSize := rfl
@[simp] theorem clearJump_audioCycles (s : State) : (clearJump s).audioCycles = s.audioCycles := rfl
@[simp] theorem clearJump_armCycles (s : State) : (clearJump s).armCycles = s.armCycles := rfl
@[simp] theorem clearJump_oscRem (s : State) : (clearJump s).oscRem = s.oscRem := rfl
@[simp] theorem clearJump_bankLocked (s : State) : (clearJump s).bankLocked = s.bankLocked := rfl
@[simp] theorem clearJump_armState (s : State) : (clearJump s).armState = s.armState := rfl
@[simp] theorem clearJump_ramInit (s : State) : (clearJump s).ramInit = s.ramInit := rfl
@[simp] theorem clearJump_oscArith (s : State) : (clearJump s).oscArith = s.oscArith := rfl
@[simp] theorem clearJump_trapFatal (s : State) : (clearJump s).trapFatal = s.trapFatal := rfl
@[simp] theorem clearJump_fractionalClocks (s : State) : (clearJump s).fractionalClocks = s.fractionalClocks := rfl
@[simp] theorem clearJump_sequencer (s : State) : (clearJump s).sequencer = s.sequencer := rfl
@[simp] theorem clearJump_armFaulted (s : State) : (clearJump s).armFaulted = s.armFaulted := rfl
@[simp] theorem clearJump_hostQueue (s : State) : (clearJump s).hostQueue = s.hostQueue := rfl
@[simp] theorem clearJump_armQueue (s : State) : (clearJump s).armQueue = s.armQueue := rfl
@[simp] theorem clearJump_result (s : State) : (clearJump s).result = s.result := rfl
@[simp] theorem clearJump_freeCount (s : State) : (clearJump s).freeCount = s.freeCount := rfl

/-! ### `clearLda` -/

@[simp] theorem clearLda_image (s : State) : (clearLda s).image = s.image := rfl
@[simp] theorem clearLda_ram (s : State) : (clearLda s).ram = s.ram := rfl
@[simp] theorem clearLda_currentBank (s : State) : (clearLda s).currentBank = s.currentBank := rfl
@[simp] theorem clearLda_mode (s : State) : (clearLda s).mode = s.mode := rfl
@[simp] theorem clearLda_ldaOperandAddr (s : State) : (clearLda s).ldaOperandAddr = 0 := rfl
@[simp] theorem clearLda_jmpOperandAddr (s : State) : (clearLda s).jmpOperandAddr = s.jmpOperandAddr := rfl
@[simp] theorem clearLda_fastJumpActive (s : State) : (clearLda s).fastJumpActive = s.fastJumpActive := rfl
@[simp] theorem clearLda_musicCounters (s : State) : (clearLda s).musicCounters = s.musicCounters := rfl
@[simp] theorem clearLda_musicFrequencies (s : State) : (clearLda s).musicFrequencies = s.musicFrequencies := rfl
@[simp] theorem clearLda_musicWaveformSize (s : State) : (clearLda s).musicWaveformSize = s.musicWaveformSize := rfl
@[simp] theorem clearLda_audioCycles (s : State) : (clearLda s).audioCycles = s.audioCycles := rfl
@[simp] theorem clearLda_armCycles (s : State) : (clearLda s).armCycles = s.armCycles := rfl
@[simp] theorem clearLda_oscRem (s : State) : (clearLda s).oscRem = s.oscRem := rfl
@[simp] theorem clearLda_bankLocked (s : State) : (clearLda s).bankLocked = s.bankLocked := rfl
@[simp] theorem clearLda_armState (s : State) : (clearLda s).armState = s.armState := rfl
@[simp] theorem clearLda_ramInit (s : State) : (clearLda s).ramInit = s.ramInit := rfl
@[simp] theorem clearLda_oscArith (s : State) : (clearLda s).oscArith = s.oscArith := rfl
@[simp] theorem clearLda_trapFatal (s : State) : (clearLda s).trapFatal = s.trapFatal := rfl
@[simp] theorem clearLda_fractionalClocks (s : State) : (clearLda s).fractionalClocks = s.fractionalClocks := rfl
@[simp] theorem clearLda_sequencer (s : State) : (clearLda s).sequencer = s.sequencer := rfl
@[simp] theorem clearLda_armFaulted (s : State) : (clearLda s).armFaulted = s.armFaulted := rfl
@[simp] theorem clearLda_hostQueue (s : State) : (clearLda s).hostQueue = s.hostQueue := rfl
@[simp] theorem clearLda_armQueue (s : State) : (clearLda s).armQueue = s.armQueue := rfl
@[simp] theorem clearLda_result (s : State) : (clearLda s).result = s.result := rfl
@[simp] theorem clearLda_freeCount (s : State) : (clearLda s).freeCount = s.freeCount := rfl

/-! ### `armLda` -/

@[simp] theorem armLda_image (a : Offset) (s : State) : (armLda a s).image = s.image := rfl
@[simp] theorem armLda_ram (a : Offset) (s : State) : (armLda a s).ram = s.ram := rfl
@[simp] theorem armLda_currentBank (a : Offset) (s : State) : (armLda a s).currentBank = s.currentBank := rfl
@[simp] theorem armLda_mode (a : Offset) (s : State) : (armLda a s).mode = s.mode := rfl
@[simp] theorem armLda_ldaOperandAddr (a : Offset) (s : State) : (armLda a s).ldaOperandAddr = a.setWidth 16 + 1 := rfl
@[simp] theorem armLda_jmpOperandAddr (a : Offset) (s : State) : (armLda a s).jmpOperandAddr = s.jmpOperandAddr := rfl
@[simp] theorem armLda_fastJumpActive (a : Offset) (s : State) : (armLda a s).fastJumpActive = s.fastJumpActive := rfl
@[simp] theorem armLda_musicCounters (a : Offset) (s : State) : (armLda a s).musicCounters = s.musicCounters := rfl
@[simp] theorem armLda_musicFrequencies (a : Offset) (s : State) : (armLda a s).musicFrequencies = s.musicFrequencies := rfl
@[simp] theorem armLda_musicWaveformSize (a : Offset) (s : State) : (armLda a s).musicWaveformSize = s.musicWaveformSize := rfl
@[simp] theorem armLda_audioCycles (a : Offset) (s : State) : (armLda a s).audioCycles = s.audioCycles := rfl
@[simp] theorem armLda_armCycles (a : Offset) (s : State) : (armLda a s).armCycles = s.armCycles := rfl
@[simp] theorem armLda_oscRem (a : Offset) (s : State) : (armLda a s).oscRem = s.oscRem := rfl
@[simp] theorem armLda_bankLocked (a : Offset) (s : State) : (armLda a s).bankLocked = s.bankLocked := rfl
@[simp] theorem armLda_armState (a : Offset) (s : State) : (armLda a s).armState = s.armState := rfl
@[simp] theorem armLda_ramInit (a : Offset) (s : State) : (armLda a s).ramInit = s.ramInit := rfl
@[simp] theorem armLda_oscArith (a : Offset) (s : State) : (armLda a s).oscArith = s.oscArith := rfl
@[simp] theorem armLda_trapFatal (a : Offset) (s : State) : (armLda a s).trapFatal = s.trapFatal := rfl
@[simp] theorem armLda_fractionalClocks (a : Offset) (s : State) : (armLda a s).fractionalClocks = s.fractionalClocks := rfl
@[simp] theorem armLda_sequencer (a : Offset) (s : State) : (armLda a s).sequencer = s.sequencer := rfl
@[simp] theorem armLda_armFaulted (a : Offset) (s : State) : (armLda a s).armFaulted = s.armFaulted := rfl
@[simp] theorem armLda_hostQueue (a : Offset) (s : State) : (armLda a s).hostQueue = s.hostQueue := rfl
@[simp] theorem armLda_armQueue (a : Offset) (s : State) : (armLda a s).armQueue = s.armQueue := rfl
@[simp] theorem armLda_result (a : Offset) (s : State) : (armLda a s).result = s.result := rfl
@[simp] theorem armLda_freeCount (a : Offset) (s : State) : (armLda a s).freeCount = s.freeCount := rfl

/-! ### `setPtr` -/

@[simp] theorem setPtr_image (i : Fin 34) (v : Word32) (s : State) : (setPtr i v s).image = s.image := rfl
@[simp] theorem setPtr_ram (i : Fin 34) (v : Word32) (s : State) : (setPtr i v s).ram = writeLE32 s.ram (ptrOffset i) v := rfl
@[simp] theorem setPtr_currentBank (i : Fin 34) (v : Word32) (s : State) : (setPtr i v s).currentBank = s.currentBank := rfl
@[simp] theorem setPtr_mode (i : Fin 34) (v : Word32) (s : State) : (setPtr i v s).mode = s.mode := rfl
@[simp] theorem setPtr_ldaOperandAddr (i : Fin 34) (v : Word32) (s : State) : (setPtr i v s).ldaOperandAddr = s.ldaOperandAddr := rfl
@[simp] theorem setPtr_jmpOperandAddr (i : Fin 34) (v : Word32) (s : State) : (setPtr i v s).jmpOperandAddr = s.jmpOperandAddr := rfl
@[simp] theorem setPtr_fastJumpActive (i : Fin 34) (v : Word32) (s : State) : (setPtr i v s).fastJumpActive = s.fastJumpActive := rfl
@[simp] theorem setPtr_musicCounters (i : Fin 34) (v : Word32) (s : State) : (setPtr i v s).musicCounters = s.musicCounters := rfl
@[simp] theorem setPtr_musicFrequencies (i : Fin 34) (v : Word32) (s : State) : (setPtr i v s).musicFrequencies = s.musicFrequencies := rfl
@[simp] theorem setPtr_musicWaveformSize (i : Fin 34) (v : Word32) (s : State) : (setPtr i v s).musicWaveformSize = s.musicWaveformSize := rfl
@[simp] theorem setPtr_audioCycles (i : Fin 34) (v : Word32) (s : State) : (setPtr i v s).audioCycles = s.audioCycles := rfl
@[simp] theorem setPtr_armCycles (i : Fin 34) (v : Word32) (s : State) : (setPtr i v s).armCycles = s.armCycles := rfl
@[simp] theorem setPtr_oscRem (i : Fin 34) (v : Word32) (s : State) : (setPtr i v s).oscRem = s.oscRem := rfl
@[simp] theorem setPtr_bankLocked (i : Fin 34) (v : Word32) (s : State) : (setPtr i v s).bankLocked = s.bankLocked := rfl
@[simp] theorem setPtr_armState (i : Fin 34) (v : Word32) (s : State) : (setPtr i v s).armState = s.armState := rfl
@[simp] theorem setPtr_ramInit (i : Fin 34) (v : Word32) (s : State) : (setPtr i v s).ramInit = s.ramInit := rfl
@[simp] theorem setPtr_oscArith (i : Fin 34) (v : Word32) (s : State) : (setPtr i v s).oscArith = s.oscArith := rfl
@[simp] theorem setPtr_trapFatal (i : Fin 34) (v : Word32) (s : State) : (setPtr i v s).trapFatal = s.trapFatal := rfl
@[simp] theorem setPtr_fractionalClocks (i : Fin 34) (v : Word32) (s : State) : (setPtr i v s).fractionalClocks = s.fractionalClocks := rfl
@[simp] theorem setPtr_sequencer (i : Fin 34) (v : Word32) (s : State) : (setPtr i v s).sequencer = s.sequencer := rfl
@[simp] theorem setPtr_armFaulted (i : Fin 34) (v : Word32) (s : State) : (setPtr i v s).armFaulted = s.armFaulted := rfl
@[simp] theorem setPtr_hostQueue (i : Fin 34) (v : Word32) (s : State) : (setPtr i v s).hostQueue = s.hostQueue := rfl
@[simp] theorem setPtr_armQueue (i : Fin 34) (v : Word32) (s : State) : (setPtr i v s).armQueue = s.armQueue := rfl
@[simp] theorem setPtr_result (i : Fin 34) (v : Word32) (s : State) : (setPtr i v s).result = s.result := rfl
@[simp] theorem setPtr_freeCount (i : Fin 34) (v : Word32) (s : State) : (setPtr i v s).freeCount = s.freeCount := rfl

/-! ### `takeHost` -/

@[simp] theorem takeHost_image (rest : List HostRequest) (s : State) : (takeHost rest s).image = s.image := rfl
@[simp] theorem takeHost_ram (rest : List HostRequest) (s : State) : (takeHost rest s).ram = s.ram := rfl
@[simp] theorem takeHost_currentBank (rest : List HostRequest) (s : State) : (takeHost rest s).currentBank = s.currentBank := rfl
@[simp] theorem takeHost_mode (rest : List HostRequest) (s : State) : (takeHost rest s).mode = s.mode := rfl
@[simp] theorem takeHost_ldaOperandAddr (rest : List HostRequest) (s : State) : (takeHost rest s).ldaOperandAddr = s.ldaOperandAddr := rfl
@[simp] theorem takeHost_jmpOperandAddr (rest : List HostRequest) (s : State) : (takeHost rest s).jmpOperandAddr = s.jmpOperandAddr := rfl
@[simp] theorem takeHost_fastJumpActive (rest : List HostRequest) (s : State) : (takeHost rest s).fastJumpActive = s.fastJumpActive := rfl
@[simp] theorem takeHost_musicCounters (rest : List HostRequest) (s : State) : (takeHost rest s).musicCounters = s.musicCounters := rfl
@[simp] theorem takeHost_musicFrequencies (rest : List HostRequest) (s : State) : (takeHost rest s).musicFrequencies = s.musicFrequencies := rfl
@[simp] theorem takeHost_musicWaveformSize (rest : List HostRequest) (s : State) : (takeHost rest s).musicWaveformSize = s.musicWaveformSize := rfl
@[simp] theorem takeHost_audioCycles (rest : List HostRequest) (s : State) : (takeHost rest s).audioCycles = s.audioCycles := rfl
@[simp] theorem takeHost_armCycles (rest : List HostRequest) (s : State) : (takeHost rest s).armCycles = s.armCycles := rfl
@[simp] theorem takeHost_oscRem (rest : List HostRequest) (s : State) : (takeHost rest s).oscRem = s.oscRem := rfl
@[simp] theorem takeHost_bankLocked (rest : List HostRequest) (s : State) : (takeHost rest s).bankLocked = s.bankLocked := rfl
@[simp] theorem takeHost_armState (rest : List HostRequest) (s : State) : (takeHost rest s).armState = s.armState := rfl
@[simp] theorem takeHost_ramInit (rest : List HostRequest) (s : State) : (takeHost rest s).ramInit = s.ramInit := rfl
@[simp] theorem takeHost_oscArith (rest : List HostRequest) (s : State) : (takeHost rest s).oscArith = s.oscArith := rfl
@[simp] theorem takeHost_trapFatal (rest : List HostRequest) (s : State) : (takeHost rest s).trapFatal = s.trapFatal := rfl
@[simp] theorem takeHost_fractionalClocks (rest : List HostRequest) (s : State) : (takeHost rest s).fractionalClocks = s.fractionalClocks := rfl
@[simp] theorem takeHost_sequencer (rest : List HostRequest) (s : State) : (takeHost rest s).sequencer = s.sequencer := rfl
@[simp] theorem takeHost_armFaulted (rest : List HostRequest) (s : State) : (takeHost rest s).armFaulted = s.armFaulted := rfl
@[simp] theorem takeHost_hostQueue (rest : List HostRequest) (s : State) : (takeHost rest s).hostQueue = rest := rfl
@[simp] theorem takeHost_armQueue (rest : List HostRequest) (s : State) : (takeHost rest s).armQueue = s.armQueue := rfl
@[simp] theorem takeHost_result (rest : List HostRequest) (s : State) : (takeHost rest s).result = s.result := rfl
@[simp] theorem takeHost_freeCount (rest : List HostRequest) (s : State) : (takeHost rest s).freeCount = s.freeCount + 1 := rfl

/-! ### `takeArm` -/

@[simp] theorem takeArm_image (rest : List ArmRequest) (s : State) : (takeArm rest s).image = s.image := rfl
@[simp] theorem takeArm_ram (rest : List ArmRequest) (s : State) : (takeArm rest s).ram = s.ram := rfl
@[simp] theorem takeArm_currentBank (rest : List ArmRequest) (s : State) : (takeArm rest s).currentBank = s.currentBank := rfl
@[simp] theorem takeArm_mode (rest : List ArmRequest) (s : State) : (takeArm rest s).mode = s.mode := rfl
@[simp] theorem takeArm_ldaOperandAddr (rest : List ArmRequest) (s : State) : (takeArm rest s).ldaOperandAddr = s.ldaOperandAddr := rfl
@[simp] theorem takeArm_jmpOperandAddr (rest : List ArmRequest) (s : State) : (takeArm rest s).jmpOperandAddr = s.jmpOperandAddr := rfl
@[simp] theorem takeArm_fastJumpActive (rest : List ArmRequest) (s : State) : (takeArm rest s).fastJumpActive = s.fastJumpActive := rfl
@[simp] theorem takeArm_musicCounters (rest : List ArmRequest) (s : State) : (takeArm rest s).musicCounters = s.musicCounters := rfl
@[simp] theorem takeArm_musicFrequencies (rest : List ArmRequest) (s : State) : (takeArm rest s).musicFrequencies = s.musicFrequencies := rfl
@[simp] theorem takeArm_musicWaveformSize (rest : List ArmRequest) (s : State) : (takeArm rest s).musicWaveformSize = s.musicWaveformSize := rfl
@[simp] theorem takeArm_audioCycles (rest : List ArmRequest) (s : State) : (takeArm rest s).audioCycles = s.audioCycles := rfl
@[simp] theorem takeArm_armCycles (rest : List ArmRequest) (s : State) : (takeArm rest s).armCycles = s.armCycles := rfl
@[simp] theorem takeArm_oscRem (rest : List ArmRequest) (s : State) : (takeArm rest s).oscRem = s.oscRem := rfl
@[simp] theorem takeArm_bankLocked (rest : List ArmRequest) (s : State) : (takeArm rest s).bankLocked = s.bankLocked := rfl
@[simp] theorem takeArm_armState (rest : List ArmRequest) (s : State) : (takeArm rest s).armState = s.armState := rfl
@[simp] theorem takeArm_ramInit (rest : List ArmRequest) (s : State) : (takeArm rest s).ramInit = s.ramInit := rfl
@[simp] theorem takeArm_oscArith (rest : List ArmRequest) (s : State) : (takeArm rest s).oscArith = s.oscArith := rfl
@[simp] theorem takeArm_trapFatal (rest : List ArmRequest) (s : State) : (takeArm rest s).trapFatal = s.trapFatal := rfl
@[simp] theorem takeArm_fractionalClocks (rest : List ArmRequest) (s : State) : (takeArm rest s).fractionalClocks = s.fractionalClocks := rfl
@[simp] theorem takeArm_sequencer (rest : List ArmRequest) (s : State) : (takeArm rest s).sequencer = s.sequencer := rfl
@[simp] theorem takeArm_armFaulted (rest : List ArmRequest) (s : State) : (takeArm rest s).armFaulted = s.armFaulted := rfl
@[simp] theorem takeArm_hostQueue (rest : List ArmRequest) (s : State) : (takeArm rest s).hostQueue = s.hostQueue := rfl
@[simp] theorem takeArm_armQueue (rest : List ArmRequest) (s : State) : (takeArm rest s).armQueue = rest := rfl
@[simp] theorem takeArm_result (rest : List ArmRequest) (s : State) : (takeArm rest s).result = s.result := rfl
@[simp] theorem takeArm_freeCount (rest : List ArmRequest) (s : State) : (takeArm rest s).freeCount = s.freeCount + 1 := rfl

/-! ### `armEnd` -/

@[simp] theorem armEnd_image (f : Bool) (s : State) : (armEnd f s).image = s.image := rfl
@[simp] theorem armEnd_ram (f : Bool) (s : State) : (armEnd f s).ram = s.ram := rfl
@[simp] theorem armEnd_currentBank (f : Bool) (s : State) : (armEnd f s).currentBank = s.currentBank := rfl
@[simp] theorem armEnd_mode (f : Bool) (s : State) : (armEnd f s).mode = s.mode := rfl
@[simp] theorem armEnd_ldaOperandAddr (f : Bool) (s : State) : (armEnd f s).ldaOperandAddr = s.ldaOperandAddr := rfl
@[simp] theorem armEnd_jmpOperandAddr (f : Bool) (s : State) : (armEnd f s).jmpOperandAddr = s.jmpOperandAddr := rfl
@[simp] theorem armEnd_fastJumpActive (f : Bool) (s : State) : (armEnd f s).fastJumpActive = s.fastJumpActive := rfl
@[simp] theorem armEnd_musicCounters (f : Bool) (s : State) : (armEnd f s).musicCounters = s.musicCounters := rfl
@[simp] theorem armEnd_musicFrequencies (f : Bool) (s : State) : (armEnd f s).musicFrequencies = s.musicFrequencies := rfl
@[simp] theorem armEnd_musicWaveformSize (f : Bool) (s : State) : (armEnd f s).musicWaveformSize = s.musicWaveformSize := rfl
@[simp] theorem armEnd_audioCycles (f : Bool) (s : State) : (armEnd f s).audioCycles = s.audioCycles := rfl
@[simp] theorem armEnd_armCycles (f : Bool) (s : State) : (armEnd f s).armCycles = s.armCycles := rfl
@[simp] theorem armEnd_oscRem (f : Bool) (s : State) : (armEnd f s).oscRem = s.oscRem := rfl
@[simp] theorem armEnd_bankLocked (f : Bool) (s : State) : (armEnd f s).bankLocked = s.bankLocked := rfl
@[simp] theorem armEnd_armState (f : Bool) (s : State) : (armEnd f s).armState = s.armState := rfl
@[simp] theorem armEnd_ramInit (f : Bool) (s : State) : (armEnd f s).ramInit = s.ramInit := rfl
@[simp] theorem armEnd_oscArith (f : Bool) (s : State) : (armEnd f s).oscArith = s.oscArith := rfl
@[simp] theorem armEnd_trapFatal (f : Bool) (s : State) : (armEnd f s).trapFatal = s.trapFatal := rfl
@[simp] theorem armEnd_fractionalClocks (f : Bool) (s : State) : (armEnd f s).fractionalClocks = s.fractionalClocks := rfl
@[simp] theorem armEnd_sequencer (f : Bool) (s : State) : (armEnd f s).sequencer = .idle := rfl
@[simp] theorem armEnd_armFaulted (f : Bool) (s : State) : (armEnd f s).armFaulted = (s.armFaulted || f) := rfl
@[simp] theorem armEnd_hostQueue (f : Bool) (s : State) : (armEnd f s).hostQueue = s.hostQueue := rfl
@[simp] theorem armEnd_armQueue (f : Bool) (s : State) : (armEnd f s).armQueue = s.armQueue := rfl
@[simp] theorem armEnd_result (f : Bool) (s : State) : (armEnd f s).result = .nothing := rfl
@[simp] theorem armEnd_freeCount (f : Bool) (s : State) : (armEnd f s).freeCount = s.freeCount := rfl

/-! ### Conditional updates -/

@[simp] theorem bank_image (n : Fin 7) (s : State) : (bank n s).image = s.image := by
  unfold bank; split <;> rfl
@[simp] theorem bank_ram (n : Fin 7) (s : State) : (bank n s).ram = s.ram := by
  unfold bank; split <;> rfl
@[simp] theorem bank_mode (n : Fin 7) (s : State) : (bank n s).mode = s.mode := by
  unfold bank; split <;> rfl
@[simp] theorem bank_ldaOperandAddr (n : Fin 7) (s : State) : (bank n s).ldaOperandAddr = s.ldaOperandAddr := by
  unfold bank; split <;> rfl
@[simp] theorem bank_jmpOperandAddr (n : Fin 7) (s : State) : (bank n s).jmpOperandAddr = s.jmpOperandAddr := by
  unfold bank; split <;> rfl
@[simp] theorem bank_fastJumpActive (n : Fin 7) (s : State) : (bank n s).fastJumpActive = s.fastJumpActive := by
  unfold bank; split <;> rfl
@[simp] theorem bank_musicCounters (n : Fin 7) (s : State) : (bank n s).musicCounters = s.musicCounters := by
  unfold bank; split <;> rfl
@[simp] theorem bank_musicFrequencies (n : Fin 7) (s : State) : (bank n s).musicFrequencies = s.musicFrequencies := by
  unfold bank; split <;> rfl
@[simp] theorem bank_musicWaveformSize (n : Fin 7) (s : State) : (bank n s).musicWaveformSize = s.musicWaveformSize := by
  unfold bank; split <;> rfl
@[simp] theorem bank_audioCycles (n : Fin 7) (s : State) : (bank n s).audioCycles = s.audioCycles := by
  unfold bank; split <;> rfl
@[simp] theorem bank_armCycles (n : Fin 7) (s : State) : (bank n s).armCycles = s.armCycles := by
  unfold bank; split <;> rfl
@[simp] theorem bank_oscRem (n : Fin 7) (s : State) : (bank n s).oscRem = s.oscRem := by
  unfold bank; split <;> rfl
@[simp] theorem bank_bankLocked (n : Fin 7) (s : State) : (bank n s).bankLocked = s.bankLocked := by
  unfold bank; split <;> rfl
@[simp] theorem bank_armState (n : Fin 7) (s : State) : (bank n s).armState = s.armState := by
  unfold bank; split <;> rfl
@[simp] theorem bank_ramInit (n : Fin 7) (s : State) : (bank n s).ramInit = s.ramInit := by
  unfold bank; split <;> rfl
@[simp] theorem bank_oscArith (n : Fin 7) (s : State) : (bank n s).oscArith = s.oscArith := by
  unfold bank; split <;> rfl
@[simp] theorem bank_trapFatal (n : Fin 7) (s : State) : (bank n s).trapFatal = s.trapFatal := by
  unfold bank; split <;> rfl
@[simp] theorem bank_fractionalClocks (n : Fin 7) (s : State) : (bank n s).fractionalClocks = s.fractionalClocks := by
  unfold bank; split <;> rfl
@[simp] theorem bank_sequencer (n : Fin 7) (s : State) : (bank n s).sequencer = s.sequencer := by
  unfold bank; split <;> rfl
@[simp] theorem bank_armFaulted (n : Fin 7) (s : State) : (bank n s).armFaulted = s.armFaulted := by
  unfold bank; split <;> rfl
@[simp] theorem bank_hostQueue (n : Fin 7) (s : State) : (bank n s).hostQueue = s.hostQueue := by
  unfold bank; split <;> rfl
@[simp] theorem bank_armQueue (n : Fin 7) (s : State) : (bank n s).armQueue = s.armQueue := by
  unfold bank; split <;> rfl
@[simp] theorem bank_result (n : Fin 7) (s : State) : (bank n s).result = s.result := by
  unfold bank; split <;> rfl
@[simp] theorem bank_freeCount (n : Fin 7) (s : State) : (bank n s).freeCount = s.freeCount := by
  unfold bank; split <;> rfl

@[simp] theorem hotspotStep_image (a : Offset) (s : State) : (hotspotStep a s).image = s.image := by
  unfold hotspotStep; split <;> simp
@[simp] theorem hotspotStep_ram (a : Offset) (s : State) : (hotspotStep a s).ram = s.ram := by
  unfold hotspotStep; split <;> simp
@[simp] theorem hotspotStep_mode (a : Offset) (s : State) : (hotspotStep a s).mode = s.mode := by
  unfold hotspotStep; split <;> simp
@[simp] theorem hotspotStep_ldaOperandAddr (a : Offset) (s : State) : (hotspotStep a s).ldaOperandAddr = s.ldaOperandAddr := by
  unfold hotspotStep; split <;> simp
@[simp] theorem hotspotStep_jmpOperandAddr (a : Offset) (s : State) : (hotspotStep a s).jmpOperandAddr = s.jmpOperandAddr := by
  unfold hotspotStep; split <;> simp
@[simp] theorem hotspotStep_fastJumpActive (a : Offset) (s : State) : (hotspotStep a s).fastJumpActive = s.fastJumpActive := by
  unfold hotspotStep; split <;> simp
@[simp] theorem hotspotStep_musicCounters (a : Offset) (s : State) : (hotspotStep a s).musicCounters = s.musicCounters := by
  unfold hotspotStep; split <;> simp
@[simp] theorem hotspotStep_musicFrequencies (a : Offset) (s : State) : (hotspotStep a s).musicFrequencies = s.musicFrequencies := by
  unfold hotspotStep; split <;> simp
@[simp] theorem hotspotStep_musicWaveformSize (a : Offset) (s : State) : (hotspotStep a s).musicWaveformSize = s.musicWaveformSize := by
  unfold hotspotStep; split <;> simp
@[simp] theorem hotspotStep_audioCycles (a : Offset) (s : State) : (hotspotStep a s).audioCycles = s.audioCycles := by
  unfold hotspotStep; split <;> simp
@[simp] theorem hotspotStep_armCycles (a : Offset) (s : State) : (hotspotStep a s).armCycles = s.armCycles := by
  unfold hotspotStep; split <;> simp
@[simp] theorem hotspotStep_oscRem (a : Offset) (s : State) : (hotspotStep a s).oscRem = s.oscRem := by
  unfold hotspotStep; split <;> simp
@[simp] theorem hotspotStep_bankLocked (a : Offset) (s : State) : (hotspotStep a s).bankLocked = s.bankLocked := by
  unfold hotspotStep; split <;> simp
@[simp] theorem hotspotStep_armState (a : Offset) (s : State) : (hotspotStep a s).armState = s.armState := by
  unfold hotspotStep; split <;> simp
@[simp] theorem hotspotStep_ramInit (a : Offset) (s : State) : (hotspotStep a s).ramInit = s.ramInit := by
  unfold hotspotStep; split <;> simp
@[simp] theorem hotspotStep_oscArith (a : Offset) (s : State) : (hotspotStep a s).oscArith = s.oscArith := by
  unfold hotspotStep; split <;> simp
@[simp] theorem hotspotStep_trapFatal (a : Offset) (s : State) : (hotspotStep a s).trapFatal = s.trapFatal := by
  unfold hotspotStep; split <;> simp
@[simp] theorem hotspotStep_fractionalClocks (a : Offset) (s : State) : (hotspotStep a s).fractionalClocks = s.fractionalClocks := by
  unfold hotspotStep; split <;> simp
@[simp] theorem hotspotStep_sequencer (a : Offset) (s : State) : (hotspotStep a s).sequencer = s.sequencer := by
  unfold hotspotStep; split <;> simp
@[simp] theorem hotspotStep_armFaulted (a : Offset) (s : State) : (hotspotStep a s).armFaulted = s.armFaulted := by
  unfold hotspotStep; split <;> simp
@[simp] theorem hotspotStep_hostQueue (a : Offset) (s : State) : (hotspotStep a s).hostQueue = s.hostQueue := by
  unfold hotspotStep; split <;> simp
@[simp] theorem hotspotStep_armQueue (a : Offset) (s : State) : (hotspotStep a s).armQueue = s.armQueue := by
  unfold hotspotStep; split <;> simp
@[simp] theorem hotspotStep_result (a : Offset) (s : State) : (hotspotStep a s).result = s.result := by
  unfold hotspotStep; split <;> simp
@[simp] theorem hotspotStep_freeCount (a : Offset) (s : State) : (hotspotStep a s).freeCount = s.freeCount := by
  unfold hotspotStep; split <;> simp

@[simp] theorem opcodeStep_image (a : Offset) (rom : Byte) (s : State) : (opcodeStep a rom s).image = s.image := by
  unfold opcodeStep; split <;> simp
@[simp] theorem opcodeStep_ram (a : Offset) (rom : Byte) (s : State) : (opcodeStep a rom s).ram = s.ram := by
  unfold opcodeStep; split <;> simp
@[simp] theorem opcodeStep_currentBank (a : Offset) (rom : Byte) (s : State) : (opcodeStep a rom s).currentBank = s.currentBank := by
  unfold opcodeStep; split <;> simp
@[simp] theorem opcodeStep_mode (a : Offset) (rom : Byte) (s : State) : (opcodeStep a rom s).mode = s.mode := by
  unfold opcodeStep; split <;> simp
@[simp] theorem opcodeStep_jmpOperandAddr (a : Offset) (rom : Byte) (s : State) : (opcodeStep a rom s).jmpOperandAddr = s.jmpOperandAddr := by
  unfold opcodeStep; split <;> simp
@[simp] theorem opcodeStep_fastJumpActive (a : Offset) (rom : Byte) (s : State) : (opcodeStep a rom s).fastJumpActive = s.fastJumpActive := by
  unfold opcodeStep; split <;> simp
@[simp] theorem opcodeStep_musicCounters (a : Offset) (rom : Byte) (s : State) : (opcodeStep a rom s).musicCounters = s.musicCounters := by
  unfold opcodeStep; split <;> simp
@[simp] theorem opcodeStep_musicFrequencies (a : Offset) (rom : Byte) (s : State) : (opcodeStep a rom s).musicFrequencies = s.musicFrequencies := by
  unfold opcodeStep; split <;> simp
@[simp] theorem opcodeStep_musicWaveformSize (a : Offset) (rom : Byte) (s : State) : (opcodeStep a rom s).musicWaveformSize = s.musicWaveformSize := by
  unfold opcodeStep; split <;> simp
@[simp] theorem opcodeStep_audioCycles (a : Offset) (rom : Byte) (s : State) : (opcodeStep a rom s).audioCycles = s.audioCycles := by
  unfold opcodeStep; split <;> simp
@[simp] theorem opcodeStep_armCycles (a : Offset) (rom : Byte) (s : State) : (opcodeStep a rom s).armCycles = s.armCycles := by
  unfold opcodeStep; split <;> simp
@[simp] theorem opcodeStep_oscRem (a : Offset) (rom : Byte) (s : State) : (opcodeStep a rom s).oscRem = s.oscRem := by
  unfold opcodeStep; split <;> simp
@[simp] theorem opcodeStep_bankLocked (a : Offset) (rom : Byte) (s : State) : (opcodeStep a rom s).bankLocked = s.bankLocked := by
  unfold opcodeStep; split <;> simp
@[simp] theorem opcodeStep_armState (a : Offset) (rom : Byte) (s : State) : (opcodeStep a rom s).armState = s.armState := by
  unfold opcodeStep; split <;> simp
@[simp] theorem opcodeStep_ramInit (a : Offset) (rom : Byte) (s : State) : (opcodeStep a rom s).ramInit = s.ramInit := by
  unfold opcodeStep; split <;> simp
@[simp] theorem opcodeStep_oscArith (a : Offset) (rom : Byte) (s : State) : (opcodeStep a rom s).oscArith = s.oscArith := by
  unfold opcodeStep; split <;> simp
@[simp] theorem opcodeStep_trapFatal (a : Offset) (rom : Byte) (s : State) : (opcodeStep a rom s).trapFatal = s.trapFatal := by
  unfold opcodeStep; split <;> simp
@[simp] theorem opcodeStep_fractionalClocks (a : Offset) (rom : Byte) (s : State) : (opcodeStep a rom s).fractionalClocks = s.fractionalClocks := by
  unfold opcodeStep; split <;> simp
@[simp] theorem opcodeStep_sequencer (a : Offset) (rom : Byte) (s : State) : (opcodeStep a rom s).sequencer = s.sequencer := by
  unfold opcodeStep; split <;> simp
@[simp] theorem opcodeStep_armFaulted (a : Offset) (rom : Byte) (s : State) : (opcodeStep a rom s).armFaulted = s.armFaulted := by
  unfold opcodeStep; split <;> simp
@[simp] theorem opcodeStep_hostQueue (a : Offset) (rom : Byte) (s : State) : (opcodeStep a rom s).hostQueue = s.hostQueue := by
  unfold opcodeStep; split <;> simp
@[simp] theorem opcodeStep_armQueue (a : Offset) (rom : Byte) (s : State) : (opcodeStep a rom s).armQueue = s.armQueue := by
  unfold opcodeStep; split <;> simp
@[simp] theorem opcodeStep_result (a : Offset) (rom : Byte) (s : State) : (opcodeStep a rom s).result = s.result := by
  unfold opcodeStep; split <;> simp
@[simp] theorem opcodeStep_freeCount (a : Offset) (rom : Byte) (s : State) : (opcodeStep a rom s).freeCount = s.freeCount := by
  unfold opcodeStep; split <;> simp

@[simp] theorem advanceCounters_image (whole : Int) (s : State) : (advanceCounters whole s).image = s.image := by
  unfold advanceCounters; split <;> rfl
@[simp] theorem advanceCounters_ram (whole : Int) (s : State) : (advanceCounters whole s).ram = s.ram := by
  unfold advanceCounters; split <;> rfl
@[simp] theorem advanceCounters_currentBank (whole : Int) (s : State) : (advanceCounters whole s).currentBank = s.currentBank := by
  unfold advanceCounters; split <;> rfl
@[simp] theorem advanceCounters_mode (whole : Int) (s : State) : (advanceCounters whole s).mode = s.mode := by
  unfold advanceCounters; split <;> rfl
@[simp] theorem advanceCounters_ldaOperandAddr (whole : Int) (s : State) : (advanceCounters whole s).ldaOperandAddr = s.ldaOperandAddr := by
  unfold advanceCounters; split <;> rfl
@[simp] theorem advanceCounters_jmpOperandAddr (whole : Int) (s : State) : (advanceCounters whole s).jmpOperandAddr = s.jmpOperandAddr := by
  unfold advanceCounters; split <;> rfl
@[simp] theorem advanceCounters_fastJumpActive (whole : Int) (s : State) : (advanceCounters whole s).fastJumpActive = s.fastJumpActive := by
  unfold advanceCounters; split <;> rfl
@[simp] theorem advanceCounters_musicFrequencies (whole : Int) (s : State) : (advanceCounters whole s).musicFrequencies = s.musicFrequencies := by
  unfold advanceCounters; split <;> rfl
@[simp] theorem advanceCounters_musicWaveformSize (whole : Int) (s : State) : (advanceCounters whole s).musicWaveformSize = s.musicWaveformSize := by
  unfold advanceCounters; split <;> rfl
@[simp] theorem advanceCounters_audioCycles (whole : Int) (s : State) : (advanceCounters whole s).audioCycles = s.audioCycles := by
  unfold advanceCounters; split <;> rfl
@[simp] theorem advanceCounters_armCycles (whole : Int) (s : State) : (advanceCounters whole s).armCycles = s.armCycles := by
  unfold advanceCounters; split <;> rfl
@[simp] theorem advanceCounters_oscRem (whole : Int) (s : State) : (advanceCounters whole s).oscRem = s.oscRem := by
  unfold advanceCounters; split <;> rfl
@[simp] theorem advanceCounters_bankLocked (whole : Int) (s : State) : (advanceCounters whole s).bankLocked = s.bankLocked := by
  unfold advanceCounters; split <;> rfl
@[simp] theorem advanceCounters_armState (whole : Int) (s : State) : (advanceCounters whole s).armState = s.armState := by
  unfold advanceCounters; split <;> rfl
@[simp] theorem advanceCounters_ramInit (whole : Int) (s : State) : (advanceCounters whole s).ramInit = s.ramInit := by
  unfold advanceCounters; split <;> rfl
@[simp] theorem advanceCounters_oscArith (whole : Int) (s : State) : (advanceCounters whole s).oscArith = s.oscArith := by
  unfold advanceCounters; split <;> rfl
@[simp] theorem advanceCounters_trapFatal (whole : Int) (s : State) : (advanceCounters whole s).trapFatal = s.trapFatal := by
  unfold advanceCounters; split <;> rfl
@[simp] theorem advanceCounters_fractionalClocks (whole : Int) (s : State) : (advanceCounters whole s).fractionalClocks = s.fractionalClocks := by
  unfold advanceCounters; split <;> rfl
@[simp] theorem advanceCounters_sequencer (whole : Int) (s : State) : (advanceCounters whole s).sequencer = s.sequencer := by
  unfold advanceCounters; split <;> rfl
@[simp] theorem advanceCounters_armFaulted (whole : Int) (s : State) : (advanceCounters whole s).armFaulted = s.armFaulted := by
  unfold advanceCounters; split <;> rfl
@[simp] theorem advanceCounters_hostQueue (whole : Int) (s : State) : (advanceCounters whole s).hostQueue = s.hostQueue := by
  unfold advanceCounters; split <;> rfl
@[simp] theorem advanceCounters_armQueue (whole : Int) (s : State) : (advanceCounters whole s).armQueue = s.armQueue := by
  unfold advanceCounters; split <;> rfl
@[simp] theorem advanceCounters_result (whole : Int) (s : State) : (advanceCounters whole s).result = s.result := by
  unfold advanceCounters; split <;> rfl
@[simp] theorem advanceCounters_freeCount (whole : Int) (s : State) : (advanceCounters whole s).freeCount = s.freeCount := by
  unfold advanceCounters; split <;> rfl

@[simp] theorem updateAudio_image (now : Cycles) (s : State) : (updateAudio now s).image = s.image := by
  unfold updateAudio; split <;> simp
@[simp] theorem updateAudio_ram (now : Cycles) (s : State) : (updateAudio now s).ram = s.ram := by
  unfold updateAudio; split <;> simp
@[simp] theorem updateAudio_currentBank (now : Cycles) (s : State) : (updateAudio now s).currentBank = s.currentBank := by
  unfold updateAudio; split <;> simp
@[simp] theorem updateAudio_mode (now : Cycles) (s : State) : (updateAudio now s).mode = s.mode := by
  unfold updateAudio; split <;> simp
@[simp] theorem updateAudio_ldaOperandAddr (now : Cycles) (s : State) : (updateAudio now s).ldaOperandAddr = s.ldaOperandAddr := by
  unfold updateAudio; split <;> simp
@[simp] theorem updateAudio_jmpOperandAddr (now : Cycles) (s : State) : (updateAudio now s).jmpOperandAddr = s.jmpOperandAddr := by
  unfold updateAudio; split <;> simp
@[simp] theorem updateAudio_fastJumpActive (now : Cycles) (s : State) : (updateAudio now s).fastJumpActive = s.fastJumpActive := by
  unfold updateAudio; split <;> simp
@[simp] theorem updateAudio_musicFrequencies (now : Cycles) (s : State) : (updateAudio now s).musicFrequencies = s.musicFrequencies := by
  unfold updateAudio; split <;> simp
@[simp] theorem updateAudio_musicWaveformSize (now : Cycles) (s : State) : (updateAudio now s).musicWaveformSize = s.musicWaveformSize := by
  unfold updateAudio; split <;> simp
@[simp] theorem updateAudio_armCycles (now : Cycles) (s : State) : (updateAudio now s).armCycles = s.armCycles := by
  unfold updateAudio; split <;> simp
@[simp] theorem updateAudio_bankLocked (now : Cycles) (s : State) : (updateAudio now s).bankLocked = s.bankLocked := by
  unfold updateAudio; split <;> simp
@[simp] theorem updateAudio_armState (now : Cycles) (s : State) : (updateAudio now s).armState = s.armState := by
  unfold updateAudio; split <;> simp
@[simp] theorem updateAudio_ramInit (now : Cycles) (s : State) : (updateAudio now s).ramInit = s.ramInit := by
  unfold updateAudio; split <;> simp
@[simp] theorem updateAudio_oscArith (now : Cycles) (s : State) : (updateAudio now s).oscArith = s.oscArith := by
  unfold updateAudio; split <;> simp
@[simp] theorem updateAudio_trapFatal (now : Cycles) (s : State) : (updateAudio now s).trapFatal = s.trapFatal := by
  unfold updateAudio; split <;> simp
@[simp] theorem updateAudio_sequencer (now : Cycles) (s : State) : (updateAudio now s).sequencer = s.sequencer := by
  unfold updateAudio; split <;> simp
@[simp] theorem updateAudio_armFaulted (now : Cycles) (s : State) : (updateAudio now s).armFaulted = s.armFaulted := by
  unfold updateAudio; split <;> simp
@[simp] theorem updateAudio_hostQueue (now : Cycles) (s : State) : (updateAudio now s).hostQueue = s.hostQueue := by
  unfold updateAudio; split <;> simp
@[simp] theorem updateAudio_armQueue (now : Cycles) (s : State) : (updateAudio now s).armQueue = s.armQueue := by
  unfold updateAudio; split <;> simp
@[simp] theorem updateAudio_result (now : Cycles) (s : State) : (updateAudio now s).result = s.result := by
  unfold updateAudio; split <;> simp
@[simp] theorem updateAudio_freeCount (now : Cycles) (s : State) : (updateAudio now s).freeCount = s.freeCount := by
  unfold updateAudio; split <;> simp

@[simp] theorem bank_currentBank (n : Fin 7) (s : State) :
    (bank n s).currentBank = if s.bankLocked then s.currentBank else n := by
  unfold bank; split <;> rfl

@[simp] theorem updateAudio_audioCycles (now : Cycles) (s : State) : (updateAudio now s).audioCycles = now := by
  unfold updateAudio; split <;> simp

end Sys2Proof.Machine
end

