-- ==== Sys2Proof/Laws/Ops.lean ====
section
/-! SUPPORT. What each shared operation can do, said once: cite these instead of unfolding the operation. -/

namespace Sys2Proof.Machine

/-! ### Where the tables lie -/

theorem ptrOffset_lt (i : Fin 34) : ptrOffset i + 4 ≤ 0x768 := by unfold ptrOffset Config.ptrTable; have := i.isLt; omega

theorem le_ptrOffset (i : Fin 34) : 0x6E0 ≤ ptrOffset i := by unfold ptrOffset Config.ptrTable; omega

/-- A stream index never leaves `D[0..4095]` (R126). -/
theorem streamIndex_lt (p : Word32) : streamIndex p < 4096 := by
  unfold streamIndex
  rw [BitVec.toNat_ushiftRight, Nat.shiftRight_eq_div_pow]
  have := p.isLt
  omega

/-! ### The stream codec -/

@[simp] theorem getPtr_setPtr_same (i : Fin 34) (v : Word32) (s : State) : getPtr (setPtr i v s) i = v := by
  simp [getPtr]

theorem getPtr_setPtr_other {i j : Fin 34} (v : Word32) (s : State) (h : j ≠ i) :
    getPtr (setPtr i v s) j = getPtr s j := by
  have : j.val ≠ i.val := fun e => h (Fin.ext e)
  simp only [getPtr, setPtr_ram]
  exact readLE32_writeLE32_other _ _ (by unfold ptrOffset; omega)

@[simp] theorem getInc_setPtr (i j : Fin 34) (v : Word32) (s : State) : getInc (setPtr i v s) j = getInc s j := by
  simp only [getInc, setPtr_ram]
  exact readLE32_writeLE32_other _ _ (by have := ptrOffset_lt i; unfold incOffset Config.incTable; omega)

@[simp] theorem displayByte_setPtr (i : Fin 34) (v : Word32) (s : State) (k : Nat) :
    displayByte (setPtr i v s) k = displayByte s k := by
  simp only [displayByte, setPtr_ram]
  exact readByte_writeLE32_other _ _ (by have := ptrOffset_lt i; unfold displayOffset Config.driverSize; omega)

/-- `set_ptr` writes its four bytes and no other (R121). -/
theorem setPtr_ramSameOutside (i : Fin 34) (v : Word32) (s : State) :
    RamSameOutside (ptrOffset i) 4 s (setPtr i v s) := fun _ h => readByte_writeLE32_other _ _ h

theorem setPtr_tablesSame (i : Fin 34) (v : Word32) (s : State) : TablesSame s (setPtr i v s) :=
  fun _ h _ => readByte_writeLE32_other _ _ (by have := ptrOffset_lt i; omega)

/-- `read_stream(i)` as an equation (R125). -/
theorem readStream_eq (i : Fin 34) (s : State) :
    readStream i s = answer (.byte (displayByte s (streamIndex (getPtr s i))))
      (setPtr i (getPtr s i + getInc s i <<< 12) s) := rfl

/-- A pointer depends on RAM only. -/
theorem getPtr_congr {s t : State} (i : Fin 34) (h : t.ram = s.ram) : getPtr t i = getPtr s i := by
  unfold getPtr; rw [h]

/-- Step 2's effect as an equation (R173). -/
theorem continueJump_eq (s : State) :
    continueJump s = answer (.byte (displayByte s (streamIndex (getPtr s 33))))
      (setPtr 33 (getPtr s 33 + 0x00100000)
        { s with fastJumpActive := s.fastJumpActive - 1, jmpOperandAddr := s.jmpOperandAddr + 1 }) := by
  unfold continueJump advancePtr streamByte
  simp only [getPtr, displayByte, Config.jumpStream, Config.byteStep]

/-- A waveform offset is below 4096 (R128). -/
theorem getWaveform_lt (s : State) (v : Fin 3) : getWaveform s v < 4096 := by
  unfold getWaveform
  simp only
  split
  · rw [BitVec.toNat_and]
    exact lt_of_le_of_lt Nat.and_le_right (by decide)
  · omega

/-! ### What reads of the state do not see -/

theorem romByte_congr {s t : State} (a : Offset) (hi : t.image = s.image) (hb : t.currentBank = s.currentBank) :
    romByte t a = romByte s a := by simp [romByte, progByte, progIndex, hi, hb]

theorem fastFetchOn_congr {s t : State} (h : t.mode = s.mode) : fastFetchOn t = fastFetchOn s := by
  simp [fastFetchOn, h]

/-- The hotspot step as `bank` of the offset's bank (R182). -/
theorem hotspotStep_of_some {a : Offset} {n : Fin 7} (s : State) (h : hotspotBank? a = some n) :
    hotspotStep a s = bank n s := by simp [hotspotStep, h]

theorem hotspotStep_of_none {a : Offset} (s : State) (h : hotspotBank? a = none) : hotspotStep a s = s := by
  simp [hotspotStep, h]

/-- `bank(n)` as one record (R160). -/
theorem bank_eq (n : Fin 7) (s : State) :
    bank n s = { s with currentBank := if s.bankLocked then s.currentBank else n } := by
  unfold bank; split <;> rfl

/-- Step 7 as one record (R182). -/
theorem hotspotStep_eq (a : Offset) (s : State) :
    hotspotStep a s =
      { s with currentBank := (hotspotBank? a).elim s.currentBank fun n => if s.bankLocked then s.currentBank else n } := by
  cases h : hotspotBank? a with
  | none => rw [hotspotStep_of_none _ h]; rfl
  | some n => rw [hotspotStep_of_some _ h, bank_eq]; rfl

/-- Step 8 as one record (R181). -/
theorem opcodeStep_eq (a : Offset) (rom : Byte) (s : State) :
    opcodeStep a rom s =
      { s with ldaOperandAddr :=
          if fastFetchOn s && decide (rom = 0xA9) then a.setWidth 16 + 1 else s.ldaOperandAddr } := by
  unfold opcodeStep; split <;> simp_all [armLda]

/-- An offset plus one stays at most 0x1000 (R33, R34). -/
theorem offset_succ_le (a : Offset) : (a.setWidth 16 + 1 : Word16).toNat ≤ 0x1000 := by
  have := a.isLt
  simp [BitVec.toNat_add]
  omega

/-! ### Rows by their number -/

/-- DS0 .. DS31, COMMSTREAM and JUMPSTREAM are one meaning (R177). -/
theorem exec_streamRead (i : Fin 34) (s : State) : exec (streamRead i) s = .next (capture (readStream i) s) := by
  fin_cases i <;> rfl

/-- BANK0.R .. BANK6.R are one meaning (R161). -/
theorem exec_bankReadRow (n : Fin 7) (s : State) :
    exec (bankReadRow n) s = .next (bankRead n (BitVec.ofNat 12 (0xFF5 + n.val)) s) := by
  fin_cases n <;> rfl

/-- BANK0.W .. BANK6.W are one meaning (R162). -/
theorem exec_bankWriteRow (n : Fin 7) (val : Byte) (s : State) :
    exec (bankWriteRow n val) s = .next (answer .nothing (bank n s)) := by
  fin_cases n <;> rfl

/-! ### Audio -/

/-- The residue stays in its range (R44, R143). -/
theorem ticksRational_lt (delta : Int) (r : Nat) : (ticksRational delta r).2 < 143183 := by
  unfold ticksRational
  simp only
  have h0 := Int.emod_nonneg (2400 * delta + r) (show (143183 : Int) ≠ 0 by decide)
  have h1 := Int.emod_lt_of_pos (2400 * delta + r) (show (0 : Int) < 143183 by decide)
  omega

/-- A counter after `whole` ticks, modulo 2^32 (R144). -/
theorem advanceCounter_toNat (c f : Word32) (whole : Int) :
    ((advanceCounter c f whole).toNat : Int) = (c.toNat + f.toNat * whole) % 4294967296 := by
  unfold advanceCounter
  generalize (c.toNat : Int) + f.toNat * whole = x
  have h : ((2 ^ 32 : Nat) : Int) = 4294967296 := by norm_num
  rw [BitVec.toNat_ofInt, h, Int.toNat_of_nonneg (Int.emod_nonneg _ (by norm_num))]

/-! ### ARM runs and callbacks -/

theorem voice?_of_lt {v : Word32} (h : v.toNat < 3) : voice? v = some ⟨v.toNat, h⟩ := by simp [voice?, h]

theorem voice?_of_ge {v : Word32} (h : 3 ≤ v.toNat) : voice? v = none := by
  simp [voice?, show ¬ v.toNat < 3 by omega]

/-- A callback on a voice 0..2 answers its next state; above 2 it is refused (R231). -/
theorem onVoice_of_lt {v : Word32} (f : Fin 3 → State) (h : v.toNat < 3) :
    onVoice v f = .next (f ⟨v.toNat, h⟩) := by simp [onVoice, voice?_of_lt h]

theorem onVoice_of_ge {v : Word32} (f : Fin 3 → State) (h : 3 ≤ v.toNat) :
    onVoice v f = .refused (.voiceOutOfRange v) := by simp [onVoice, voice?_of_ge h]

/-- If a callback answers a next state, it acted on one voice (R231). -/
theorem onVoice_next {v : Word32} {f : Fin 3 → State} {t : State} (h : onVoice v f = .next t) :
    ∃ k, voice? v = some k ∧ t = f k := by
  unfold onVoice at h
  split at h
  · rename_i k hk
    exact ⟨k, hk, by cases h; rfl⟩
  · cases h

/-- All that starting a run can do (R222, R223). -/
theorem armRun_next {now : Cycles} {s t : State} (h : armRun now s = .next t) :
    -2147483648 ≤ armBudget now s ∧ armBudget now s < 2147483648 ∧
      t = answer .nothing { s with armCycles := now, sequencer := .running (armBudget now s) } := by
  unfold armRun at h
  simp only at h
  split at h
  · rename_i hb
    exact ⟨hb.1, hb.2, by cases h; rfl⟩
  · cases h

theorem armRun_of_fits {now : Cycles} {s : State} (h : -2147483648 ≤ armBudget now s)
    (h' : armBudget now s < 2147483648) :
    armRun now s = .next (answer .nothing { s with armCycles := now, sequencer := .running (armBudget now s) }) := by
  simp [armRun, h, h']

theorem armRamOffset?_some {x : Word32} {k : Nat} (h : armRamOffset? x = some k) :
    k < Config.ramSize ∧ x.toNat = Config.armRamBase + k := by
  unfold armRamOffset? at h
  split at h
  · have := Option.some.inj h
    omega
  · exact absurd h (by simp)

theorem armRomOffset?_some {x : Word32} {k : Nat} (h : armRomOffset? x = some k) :
    k < Config.armRomLimit ∧ x.toNat = k := by
  unfold armRomOffset? at h
  split at h
  · have := Option.some.inj h
    omega
  · exact absurd h (by simp)

/-! ### One step -/

/-- If a packet answers a next state, it decoded to an operation that did. -/
theorem runPacket_next {p : Packet} {s t : State} (h : runPacket p s = .next t) :
    ∃ i, decode p = .ok i ∧ exec i s = .next t := by
  unfold runPacket at h
  split at h
  · exact ⟨_, ‹_›, h⟩
  · cases h

/-- All that a step can do when it answers a next state: nothing is asked; a host operation runs; the ARM makes an
internal step; its run ends; an ARM action runs. -/
theorem step_next {s t : State} (h : step s = .next t) :
    (s.sequencer = .idle ∧ s.hostQueue = [] ∧ t = s) ∨
    (∃ r rest i, HostNext s r rest ∧ decode (hostPacket (takeHost rest s) r) = .ok i ∧
      exec i (takeHost rest s) = .next t) ∨
    (∃ a rest, ArmNext s (.internal a) rest ∧ t = answer .nothing { takeArm rest s with armState := a }) ∨
    (∃ f rest, ArmNext s (.finish f) rest ∧ t = armEnd f (takeArm rest s)) ∨
    (∃ r rest p i, ArmNext s r rest ∧ (p.port = .armCallback ∨ p.port = .envOp) ∧ decode p = .ok i ∧
      exec i (takeArm rest s) = .next t) := by
  unfold step at h
  split at h
  · rename_i hs
    unfold stepHost at h
    split at h
    · cases h; exact .inl ⟨hs, ‹_›, rfl⟩
    · obtain ⟨i, hi, hx⟩ := runPacket_next h
      exact .inr (.inl ⟨_, _, i, ⟨hs, ‹_›⟩, hi, hx⟩)
  · rename_i b hs
    unfold stepArm at h
    split at h
    · cases h
    · cases h; exact .inr (.inr (.inl ⟨_, _, ⟨⟨b, hs⟩, ‹_›⟩, rfl⟩))
    · cases h; exact .inr (.inr (.inr (.inl ⟨_, _, ⟨⟨b, hs⟩, ‹_›⟩, rfl⟩)))
    all_goals
      obtain ⟨i, hi, hx⟩ := runPacket_next h
      exact .inr (.inr (.inr (.inr ⟨_, _, _, i, ⟨⟨b, hs⟩, ‹_›⟩, by first | exact .inl rfl | exact .inr rfl, hi, hx⟩)))

end Sys2Proof.Machine
end

