-- ==== Sys2Proof/Laws/PerInstr.lean ====
section
/-! SUPPORT. Statements made per instruction. PacketLength: the encoder writes exactly the bytes of the port it
writes for. -/

namespace Sys2Proof.Laws.PacketLength

def Statement (i : Instr) : Prop := (encode i).bytes.length = (encode i).port.packetLength

theorem jmpCont (a : Offset) : Statement (.jmpCont a) := rfl

theorem bank0R : Statement (.bank0R) := rfl

theorem bank1R : Statement (.bank1R) := rfl

theorem bank2R : Statement (.bank2R) := rfl

theorem bank3R : Statement (.bank3R) := rfl

theorem bank4R : Statement (.bank4R) := rfl

theorem bank5R : Statement (.bank5R) := rfl

theorem bank6R : Statement (.bank6R) := rfl

theorem romread (a : Offset) : Statement (.romread a) := by
  show (bytesOf 2 a.toNat).length = (if isHotspot a then Port.lockedRead else Port.hostRead).packetLength
  split <;> rfl

theorem dswrite (val : Byte) : Statement (.dswrite val) := rfl

theorem dsptr (val : Byte) : Statement (.dsptr val) := rfl

theorem setmode (val : Byte) : Statement (.setmode val) := rfl

theorem callfn (val : Byte) (now : Cycles) : Statement (.callfn val now) := rfl

theorem bank0W (val : Byte) : Statement (.bank0W val) := rfl

theorem bank1W (val : Byte) : Statement (.bank1W val) := rfl

theorem bank2W (val : Byte) : Statement (.bank2W val) := rfl

theorem bank3W (val : Byte) : Statement (.bank3W val) := rfl

theorem bank4W (val : Byte) : Statement (.bank4W val) := rfl

theorem bank5W (val : Byte) : Statement (.bank5W val) := rfl

theorem bank6W (val : Byte) : Statement (.bank6W val) := rfl

theorem writeIgnored (a : Offset) (val : Byte) : Statement (.writeIgnored a val) := rfl

theorem jmpFast (a : Offset) : Statement (.jmpFast a) := rfl

theorem ldaImm (a : Offset) : Statement (.ldaImm a) := rfl

theorem ds0 : Statement (.ds0) := rfl

theorem ds1 : Statement (.ds1) := rfl

theorem ds2 : Statement (.ds2) := rfl

theorem ds3 : Statement (.ds3) := rfl

theorem ds4 : Statement (.ds4) := rfl

theorem ds5 : Statement (.ds5) := rfl

theorem ds6 : Statement (.ds6) := rfl

theorem ds7 : Statement (.ds7) := rfl

theorem ds8 : Statement (.ds8) := rfl

theorem ds9 : Statement (.ds9) := rfl

theorem ds10 : Statement (.ds10) := rfl

theorem ds11 : Statement (.ds11) := rfl

theorem ds12 : Statement (.ds12) := rfl

theorem ds13 : Statement (.ds13) := rfl

theorem ds14 : Statement (.ds14) := rfl

theorem ds15 : Statement (.ds15) := rfl

theorem ds16 : Statement (.ds16) := rfl

theorem ds17 : Statement (.ds17) := rfl

theorem ds18 : Statement (.ds18) := rfl

theorem ds19 : Statement (.ds19) := rfl

theorem ds20 : Statement (.ds20) := rfl

theorem ds21 : Statement (.ds21) := rfl

theorem ds22 : Statement (.ds22) := rfl

theorem ds23 : Statement (.ds23) := rfl

theorem ds24 : Statement (.ds24) := rfl

theorem ds25 : Statement (.ds25) := rfl

theorem ds26 : Statement (.ds26) := rfl

theorem ds27 : Statement (.ds27) := rfl

theorem ds28 : Statement (.ds28) := rfl

theorem ds29 : Statement (.ds29) := rfl

theorem ds30 : Statement (.ds30) := rfl

theorem ds31 : Statement (.ds31) := rfl

theorem commstream : Statement (.commstream) := rfl

theorem jumpstream : Statement (.jumpstream) := rfl

theorem amplitude (now : Cycles) : Statement (.amplitude now) := rfl

theorem pass (rom : Byte) (a : Offset) : Statement (.pass rom a) := rfl

theorem callfnRun254 (now : Cycles) : Statement (.callfnRun254 now) := rfl

theorem callfnRun255 (now : Cycles) : Statement (.callfnRun255 now) := rfl

theorem callfnNop (val : Byte) : Statement (.callfnNop val) := rfl

theorem setnote (v f : Word32) : Statement (.setnote v f) := rfl

theorem resetwave (v : Word32) : Statement (.resetwave v) := rfl

theorem getwaveptr (v : Word32) : Statement (.getwaveptr v) := rfl

theorem setwavesize (v size : Word32) : Statement (.setwavesize v size) := rfl

theorem reset (now : Cycles) : Statement (.reset now) := rfl

theorem cyclesreset (offset : Cycles) : Statement (.cyclesreset offset) := rfl

theorem setbanklock (b : Bool) : Statement (.setbanklock b) := rfl

theorem patch (addr : Word16) (val : Byte) : Statement (.patch addr val) := rfl

theorem getbank : Statement (.getbank) := rfl

theorem armramread (x : Word32) : Statement (.armramread x) := rfl

theorem armromread (x : Word32) : Statement (.armromread x) := rfl

theorem armramwrite (x : Word32) (val : Byte) : Statement (.armramwrite x val) := rfl

end Sys2Proof.Laws.PacketLength
end

