-- ==== Sys2Proof/Tests/Slice0.lean ====
section
/-! SUPPORT. Tests: ill-formed operations are refused, words written out from the spec's encodings decode to their
rows, vectors of spec/95_test_vectors.md hold, and the hypotheses of every statement are met somewhere. -/

namespace Sys2Proof.Tests

open Sys2Proof Sys2Proof.Machine

/-! ### Helpers -/

/-- What a function reads off the next state, if the outcome is one. -/
def after {α : Type} (f : State → α) : Step → Option α
  | .next t => some (f t)
  | _ => none

/-- The state after an outcome, or the state before it. -/
def nextOr (s : State) : Step → State
  | .next t => t
  | _ => s

/-- The latches: `lda_operand_addr`, `jmp_operand_addr`, `fast_jump_active`. -/
def latches (s : State) : Nat × Nat × Nat :=
  (s.ldaOperandAddr.toNat, s.jmpOperandAddr.toNat, s.fastJumpActive.toNat)

/-- The reset state with a mode and a bank. -/
def start (mode : Byte) (bank : Fin 7) : State := { State.reset with mode := mode, currentBank := bank }

/-- ROM bytes at a window offset of a bank. -/
def withRom (bank o : Nat) (bs : List Byte) (s : State) : State :=
  { s with image := writeBytes s.image (4096 + bank * 4096 + o) bs }

/-- RAM bytes. -/
def withRam (k : Nat) (bs : List Byte) (s : State) : State := { s with ram := writeBytes s.ram k bs }

/-- A stream with its pointer and increment. -/
def withStream (i : Fin 34) (p inc : Word32) (s : State) : State := setInc i inc (setPtr i p s)

/-- The host's next operations. -/
def withHost (l : List HostRequest) (s : State) : State := { s with hostQueue := l }

/-- A run that is on, with the ARM's next actions. -/
def withArm (l : List ArmRequest) (s : State) : State := { s with sequencer := .running 40, armQueue := l }

/-! ### Well-formedness: each check refuses an ill-formed operation (R105, R207) -/

theorem test_wf_writeIgnored_dswrite : (Instr.writeIgnored 0xFF0 0).wellFormed = false := by decide
theorem test_wf_writeIgnored_callfn : (Instr.writeIgnored 0xFF3 0).wellFormed = false := by decide
theorem test_wf_writeIgnored_bank0 : (Instr.writeIgnored 0xFF5 0).wellFormed = false := by decide
theorem test_wf_writeIgnored_bank6 : (Instr.writeIgnored 0xFFB 0).wellFormed = false := by decide
theorem test_wf_pass_amplitude : (Instr.pass 0x22 5).wellFormed = false := by decide
theorem test_wf_callfnNop_run254 : (Instr.callfnNop 254).wellFormed = false := by decide
theorem test_wf_callfnNop_run255 : (Instr.callfnNop 255).wellFormed = false := by decide
/-- The values next to them are well-formed: hypothesis of O1 at the ends of its ranges. -/
theorem witness_DecodeOfEncodeIsTheOperation :
    ∀ i ∈ [Instr.writeIgnored 0 0, .writeIgnored 0xFEF 0, .writeIgnored 0xFF4 0, .writeIgnored 0xFFC 0,
      .writeIgnored 0xFFF 0, .pass 0x23 5, .pass 0xFF 5, .callfnNop 253, .callfnNop 0], i.wellFormed = true := by decide

/-! ### Decoding of written-out words -/

/-- Every packet of a list, its bytes written out, decodes to the operation beside it. -/
def decodesTo (p : Port) (l : List (List Byte × Instr)) : Bool :=
  l.all fun x =>
    match decode ⟨p, x.1⟩ with
    | .ok i => decide (i = x.2)
    | .error _ => false

/-- HOST_READ (R91): the 12-bit offset, bits 15..12 of the second byte not looked at. -/
theorem test_decode_hostRead : decodesTo .hostRead
    [([0xF5, 0x0F], .bank0R), ([0xF6, 0x0F], .bank1R), ([0xF7, 0x0F], .bank2R), ([0xF8, 0x0F], .bank3R),
     ([0xF9, 0x0F], .bank4R), ([0xFA, 0x0F], .bank5R), ([0xFB, 0xFF], .bank6R), ([0xF4, 0x0F], .romread 0xFF4),
     ([0xFC, 0x0F], .romread 0xFFC), ([0x00, 0x10], .romread 0)] = true := by decide

/-- JMP.CONT (R173) and ROMREAD while bank-locked (R171) take any offset. -/
theorem test_decode_stateMatched :
    decodesTo .jumpContinuation [([0x01, 0x02], .jmpCont 0x201), ([0xF5, 0x0F], .jmpCont 0xFF5)] = true ∧
      decodesTo .lockedRead [([0xF5, 0x0F], .romread 0xFF5), ([0x34, 0x12], .romread 0x234)] = true := by decide

/-- HOST_WRITE (R92): offset, data, `now`. -/
theorem test_decode_hostWrite : decodesTo .hostWrite
    [([0xF0, 0x0F, 0x5A, 0, 0, 0, 0, 0, 0, 0, 0], .dswrite 0x5A),
     ([0xF1, 0x0F, 0x12, 0, 0, 0, 0, 0, 0, 0, 0], .dsptr 0x12),
     ([0xF2, 0x0F, 0xF0, 0, 0, 0, 0, 0, 0, 0, 0], .setmode 0xF0),
     ([0xF3, 0x0F, 0xFE, 0x05, 0x01, 0, 0, 0, 0, 0, 0], .callfn 0xFE 0x105),
     ([0xF4, 0x0F, 0x77, 0, 0, 0, 0, 0, 0, 0, 0], .writeIgnored 0xFF4 0x77),
     ([0x34, 0x12, 0x77, 0, 0, 0, 0, 0, 0, 0, 0], .writeIgnored 0x234 0x77)] = true := by decide

/-- HOST_WRITE, the bank rows (R92). -/
theorem test_decode_bankWrite : decodesTo .hostWrite
    [([0xF5, 0x0F, 1, 0, 0, 0, 0, 0, 0, 0, 0], .bank0W 1), ([0xF6, 0x0F, 2, 0, 0, 0, 0, 0, 0, 0, 0], .bank1W 2),
     ([0xF7, 0x0F, 3, 0, 0, 0, 0, 0, 0, 0, 0], .bank2W 3), ([0xF8, 0x0F, 4, 0, 0, 0, 0, 0, 0, 0, 0], .bank3W 4),
     ([0xF9, 0x0F, 5, 0, 0, 0, 0, 0, 0, 0, 0], .bank4W 5), ([0xFA, 0x0F, 6, 0, 0, 0, 0, 0, 0, 0, 0], .bank5W 6),
     ([0xFB, 0x0F, 7, 0, 0, 0, 0, 0, 0, 0, 0], .bank6W 7)] = true := by decide

/-- FF_OPCODE (R94): `4C 00 00` before `A9`; other bytes are no row of the format. -/
theorem test_decode_ffOpcode : decodesTo .ffOpcode
    [([0x4C, 0x00, 0x00, 0x00, 0x02], .jmpFast 0x200), ([0xA9, 0x00, 0x00, 0xFF, 0x0F], .ldaImm 0xFFF),
     ([0xA9, 0x05, 0x8D, 0x00, 0x01], .ldaImm 0x100)] = true ∧
    decode ⟨.ffOpcode, [0x4C, 0x00, 0x01, 0x00, 0x02]⟩ = .error .notAnOpcodePattern := by decide

/-- One FF_OPERAND packet: selector, offset 0x101, `now` 7. -/
def operandWord (rom : Byte) : List Byte := [rom, 0x01, 0x01, 7, 0, 0, 0, 0, 0, 0, 0]

/-- FF_OPERAND (R95): streams 0 to 15. -/
theorem test_decode_ffOperand_low : decodesTo .ffOperand
    [(operandWord 0x00, .ds0), (operandWord 0x01, .ds1), (operandWord 0x02, .ds2), (operandWord 0x03, .ds3),
     (operandWord 0x04, .ds4), (operandWord 0x05, .ds5), (operandWord 0x06, .ds6), (operandWord 0x07, .ds7),
     (operandWord 0x08, .ds8), (operandWord 0x09, .ds9), (operandWord 0x0A, .ds10), (operandWord 0x0B, .ds11),
     (operandWord 0x0C, .ds12), (operandWord 0x0D, .ds13), (operandWord 0x0E, .ds14),
     (operandWord 0x0F, .ds15)] = true := by decide

/-- FF_OPERAND (R95): streams 16 to 31. -/
theorem test_decode_ffOperand_high : decodesTo .ffOperand
    [(operandWord 0x10, .ds16), (operandWord 0x11, .ds17), (operandWord 0x12, .ds18), (operandWord 0x13, .ds19),
     (operandWord 0x14, .ds20), (operandWord 0x15, .ds21), (operandWord 0x16, .ds22), (operandWord 0x17, .ds23),
     (operandWord 0x18, .ds24), (operandWord 0x19, .ds25), (operandWord 0x1A, .ds26), (operandWord 0x1B, .ds27),
     (operandWord 0x1C, .ds28), (operandWord 0x1D, .ds29), (operandWord 0x1E, .ds30),
     (operandWord 0x1F, .ds31)] = true := by decide

/-- FF_OPERAND (R95): the two special streams, the sample, and an operand that is not intercepted. -/
theorem test_decode_ffOperand_special : decodesTo .ffOperand
    [(operandWord 0x20, .commstream), (operandWord 0x21, .jumpstream), (operandWord 0x22, .amplitude 7),
     (operandWord 0x23, .pass 0x23 0x101), (operandWord 0xFF, .pass 0xFF 0x101)] = true := by decide

/-- CALLFN_ARG (R97): the data and `now` = -1. -/
theorem test_decode_callfnArg : decodesTo .callfnArg
    [([0xFE, 0xFF, 0xFF, 0xFF, 0xFF, 0xFF, 0xFF, 0xFF, 0xFF], .callfnRun254 (-1)),
     ([0xFF, 5, 0, 0, 0, 0, 0, 0, 0], .callfnRun255 5), ([0xFD, 5, 0, 0, 0, 0, 0, 0, 0], .callfnNop 0xFD),
     ([0x00, 5, 0, 0, 0, 0, 0, 0, 0], .callfnNop 0)] = true := by decide

/-- ARM_CB (R98): code, `a1`, `a2`, little-endian; a code above 3 is refused by name. -/
theorem test_decode_armCallback : decodesTo .armCallback
    [([0, 0, 0, 0, 1, 0, 0, 0, 0x78, 0x56, 0x34, 0x12], .setnote 1 0x12345678),
     ([1, 0, 0, 0, 2, 0, 0, 0, 0, 0, 0, 0], .resetwave 2), ([2, 0, 0, 0, 2, 0, 0, 0, 9, 0, 0, 0], .getwaveptr 2),
     ([3, 0, 0, 0, 1, 0, 0, 0, 0x1B, 0x01, 0, 0], .setwavesize 1 0x11B)] = true ∧
    decode ⟨.armCallback, [4, 0, 0, 0, 1, 0, 0, 0, 0, 0, 0, 0]⟩ = .error (.unknownCallbackCode 4) := by decide

/-- ENV_OP (R105): the table's serial number, then the operands. -/
theorem test_decode_envOp : decodesTo .envOp
    [([0, 0xE8, 0x03, 0, 0, 0, 0, 0, 0], .reset 1000), ([1, 0xE8, 0x03, 0, 0, 0, 0, 0, 0], .cyclesreset 1000),
     ([2, 1, 0, 0, 0, 0, 0, 0, 0], .setbanklock true), ([3, 0x40, 0x10, 0x55, 0, 0, 0, 0, 0], .patch 0x1040 0x55),
     ([4, 0, 0, 0, 0, 0, 0, 0, 0], .getbank), ([5, 0xF4, 0x06, 0, 0x40, 0, 0, 0, 0], .armramread 0x400006F4),
     ([6, 0xFF, 0x7F, 0, 0, 0, 0, 0, 0], .armromread 0x7FFF),
     ([7, 0xF4, 0x06, 0, 0x40, 0x50, 0, 0, 0], .armramwrite 0x400006F4 0x50)] = true ∧
    decode ⟨.envOp, [8, 0, 0, 0, 0, 0, 0, 0, 0]⟩ = .error (.unknownEnvOp 8) ∧
    decode ⟨.envOp, [2, 2, 0, 0, 0, 0, 0, 0, 0]⟩ = .error (.notABool 2) ∧
    decode ⟨.envOp, [0, 0, 0]⟩ = .error .truncated := by decide

/-! ### Read decoder: vectors S1 to S3, C and D -/

/-- S3, second read: stream 33's byte, the count and the address move, the pointer steps by one byte. -/
theorem test_jmpCont : after (fun t => (t.result, latches t, getPtr t 33))
    (exec (.jmpCont 0x201) (withRam 0x800 [0xAB, 0xCD]
      { start 0 6 with jmpOperandAddr := 0x201, fastJumpActive := 2 })) =
    some (.byte 0xAB, (0, 0x202, 1), 0x00100000) := by decide

/-- S1 and C1: each bank row answers the old bank's byte and selects its bank. -/
theorem test_bankRead : ∀ n : Fin 7, after (fun t => (t.result, t.currentBank))
    (exec (bankReadRow n) (withRom 6 0xFF5 [0x50, 0x51, 0x52, 0x53, 0x54, 0x55, 0x56] (start 0xFF 6))) =
    some (.byte (BitVec.ofNat 8 (0x50 + n.val)), n) := by decide

/-- D8a: a hotspot that holds `A9` switches the bank and arms the latch. -/
theorem test_bank0R_opcode : after (fun t => (t.result, t.currentBank, latches t))
    (exec .bank0R (withRom 6 0xFF5 [0xA9] (start 0 6))) = some (.byte 0xA9, 0, (0xFF6, 0, 0)) := by decide

/-- D2: a read elsewhere disarms; D11: a locked read leaves the latch. -/
theorem test_romread : ∀ locked : Bool, after (fun t => (t.result, latches t))
    (exec (.romread 0x300) (withRom 6 0x300 [0xEA]
      { start 0 6 with ldaOperandAddr := 0x101, bankLocked := locked })) =
    some (.byte 0xEA, (if locked then 0x101 else 0, 0, 0)) := by decide

/-- S3, first read. -/
theorem test_jmpFast : after (fun t => (t.result, latches t))
    (exec (.jmpFast 0x200) (withRom 6 0x200 [0x4C, 0, 0] (start 0 6))) =
    some (.byte 0x4C, (0, 0x201, 2)) := by decide

/-- D9: the latch value past the window is kept whole. -/
theorem test_ldaImm : after (fun t => (t.result, latches t))
    (exec (.ldaImm 0xFFF) (withRom 6 0xFFF [0xA9] (start 0 6))) = some (.byte 0xA9, (0x1000, 0, 0)) := by decide

/-- SETUP of part 2: stream `i` starts at index `i`, one byte a read, and its first byte is 0x80 + i. -/
theorem test_streamRead : ∀ i : Fin 34, after (fun t => (t.result, getPtr t i, latches t))
    (exec (streamRead i) (withStream i (BitVec.ofNat 32 (i.val * 1048576)) 0x100
      (withRam (0x800 + i.val) [BitVec.ofNat 8 (0x80 + i.val)] { start 0 6 with ldaOperandAddr := 0x101 }))) =
    some (.byte (BitVec.ofNat 8 (0x80 + i.val)), BitVec.ofNat 32 ((i.val + 1) * 1048576), (0, 0, 0)) := by
  decide +kernel

/-- A3: the pointer wraps at the end of the 4 KiB a stream can reach. -/
theorem test_ds5_wraps : after (fun t => (t.result, getPtr t 5))
    (exec .ds5 (withStream 5 0xFFF00000 0x100 (withRam 0x17FF [0x77] (start 0 6)))) =
    some (.byte 0x77, 0) := by decide

/-- A5, last read: an increment of minus one byte; the pointer's low 12 bits stay. -/
theorem test_ds5_backwards : after (fun t => getPtr t 5)
    (exec .ds5 (withStream 5 0x00000ABC 0x000FFF00 (start 0 6))) = some 0xFFF00ABC := by decide

/-- B3: one tick has passed since `osc_rem` was 141600. -/
theorem test_amplitude_clock : after (fun t => (t.oscRem, t.musicCounters, t.audioCycles))
    (exec (.amplitude 1060) { start 0 6 with
      audioCycles := 1059, oscRem := 141600, musicFrequencies := ⟨3, 5, 0x80000000⟩ }) =
    some (817, ⟨3, 5, 0x80000000⟩, 1060) := by decide

/-- B9: digital mode, bit 20 of counter 0 set, the low nibble of ROM[0x1001]. -/
theorem test_amplitude_digital : after (fun t => t.result)
    (exec (.amplitude 0) (withRom 0 1 [0xB7] (withRam 0x7F0 [0x00, 0x10, 0x00, 0x00]
      { start 0 6 with musicCounters := ⟨0x00300000, 0, 0⟩ }))) = some (.byte 0x07) := by decide

/-- B7: the additive sum of three display bytes, modulo 256. -/
theorem test_sample_additive : sample (withRam 0xB05 [0x30] (withRam 0xA1F [0x90] (withRam 0x901 [0x90]
    (withRam 0x7F4 [0x00, 0x09, 0x00, 0x40, 0x00, 0x0A, 0x00, 0x40, 0x00, 0x0B, 0x00, 0x40]
      { start 0xF0 6 with
        musicWaveformSize := ⟨27, 27, 24⟩, musicCounters := ⟨0x08000000, 0xF8000000, 0x05000000⟩ })))) =
    0x50 := by decide +kernel

/-- B6: a negative difference drops its ticks and keeps a non-negative residue. -/
theorem test_ticksRational_negative : ticksRational (-100) 0 = (-2, 46366) := by decide

/-- R143, D3: the two arithmetics part at `delta` = 143183, and agree at S4's 1193192. -/
theorem test_ticksF64 : (ticksF64 143183 0).1 = 2399 ∧ (ticksF64 1193192 0).1 = 20000 ∧
    (ticksRational 143183 0).1 = 2400 ∧ ticksRational 1193192 0 = (20000, 800) := by decide +kernel

/-- Well-known results of IEEE 754: 1/3, 0.1 + 0.2, and the integer 2^53 + 1, a tie that goes to even. -/
theorem test_f64 : f64Div 0x3FF0000000000000 0x4008000000000000 = 0x3FD5555555555555 ∧
    f64Add 0x3FB999999999999A 0x3FC999999999999A = 0x3FD3333333333334 ∧
    f64OfInt 9007199254740993 = 0x4340000000000000 := by decide +kernel

/-- A8: waveform offsets. -/
theorem test_getWaveform : ∀ x ∈ [((0x40000920 : Word32), 0x120), (0x40001900, 0x100), (0, 0x800),
      (0x400007FF, 0xFFF), (0x40001800, 0), (0x40000800, 0)],
    getWaveform { start 0 6 with ram := writeLE32 [] 0x7F8 x.1 } 1 = x.2 := by decide

/-- D5: an operand `A9` that passes arms the latch again; D3: another one does not. -/
theorem test_pass : after latches (exec (.pass 0xA9 0x101) { start 0 6 with ldaOperandAddr := 0x101 }) =
      some (0x102, 0, 0) ∧
    after (fun t => (t.result, latches t)) (exec (.pass 0x23 0x101) { start 0 6 with ldaOperandAddr := 0x101 }) =
      some (.byte 0x23, (0, 0, 0)) := by decide

/-! ### Write ports: vectors S5, C2 and E -/

/-- E1: the store, then the wrap of the pointer. -/
theorem test_dswrite : after (fun t => (readByte t.ram 0x17FF, getPtr t 32, t.result))
    (exec (.dswrite 0x5A) (withStream 32 0xFFF12345 0x100 (start 0 6))) =
    some (0x5A, 0x00012345, .nothing) := by decide

/-- E2b: the old low nibble of the index moves to the top. -/
theorem test_dsptr : after (fun t => getPtr t 32) (exec (.dsptr 0xAB) (withStream 32 0x00100000 0 (start 0 6))) =
    some 0x1AB00000 := by decide

/-- S5: the first write from 0x12345678, and the last. -/
theorem test_shiftedPtr : shiftedPtr 0x12345678 0x12 = 0x31200000 ∧ shiftedPtr 0x45600000 0x78 = 0x67800000 := by
  decide

/-- E6: what the mode byte turns on. -/
theorem test_setmode : ∀ x ∈ [((0x0F : Byte), false, true), (0xF0, true, false), (0x00, true, true),
      (0xFF, false, false), (0x12, false, false)],
    after (fun t => (t.mode, fastFetchOn t, digitalAudioOn t)) (exec (.setmode x.1) (start 0x55 6)) =
      some x := by decide +kernel

/-- E4: 253 does nothing; 254 starts a run with the elapsed cycles. -/
theorem test_callfn : after (fun t => (t.armCycles, t.sequencer)) (exec (.callfn 253 50) { start 0 6 with
      armCycles := 10 }) = some (10, .idle) ∧
    after (fun t => (t.armCycles, t.sequencer)) (exec (.callfn 254 50) { start 0 6 with armCycles := 10 }) =
      some (50, .running 40) := by decide

/-- C2 and C4: each bank write selects its bank, and does nothing while locked. -/
theorem test_bankWrite : ∀ (n : Fin 7) (locked : Bool), after (fun t => t.currentBank)
    (exec (bankWriteRow n 0xFF) { start 0 3 with bankLocked := locked }) =
    some (if locked then 3 else n) := by decide

/-- E3. -/
theorem test_writeIgnored : after id (exec (.writeIgnored 0x234 0x77) (start 0 6)) = some (start 0 6) := by decide

/-- F6: the run rows rebase `arm_cycles` only. -/
theorem test_callfnRun : ∀ i ∈ [Instr.callfnRun254 105, .callfnRun255 105],
    after (fun t => (t.armCycles, t.audioCycles, t.sequencer))
      (exec i { start 0 6 with armCycles := 100, audioCycles := 100 }) = some (105, 100, .running 5) := by decide

/-- D15: a budget of 2^31 is refused. -/
theorem test_callfnRun_refused : exec (.callfnRun254 0x80000000) (start 0 6) =
    .refused (.budgetOutsideI32 2147483648) := rfl

/-- R220: any other value does nothing. -/
theorem test_callfnNop : after id (exec (.callfnNop 0) (start 0 6)) = some (start 0 6) := by decide

/-! ### ARM bridge: vectors F -/

/-- F1. -/
theorem test_setnote : after (fun t => (t.musicFrequencies, t.result)) (exec (.setnote 1 0x12345678) (start 0 6)) =
    some (⟨0, 0x12345678, 0⟩, .word 0) := by decide

/-- F2: read, clear. -/
theorem test_getwaveptr : after (fun t => t.result)
    (exec (.getwaveptr 2) { start 0 6 with musicCounters := ⟨1, 2, 0xDEADBEEF⟩ }) = some (.word 0xDEADBEEF) := by
  decide
theorem test_resetwave : after (fun t => (t.musicCounters, t.result))
    (exec (.resetwave 2) { start 0 6 with musicCounters := ⟨1, 2, 0xDEADBEEF⟩ }) = some (⟨1, 2, 0⟩, .word 0) := by
  decide

/-- F3: the low 8 bits of the size. -/
theorem test_setwavesize : after (fun t => t.musicWaveformSize) (exec (.setwavesize 1 0x11B) (start 0 6)) =
    some ⟨27, 0x1B, 27⟩ := by decide

/-- F4: a voice above 2 is refused; so is a code above 3. -/
theorem test_setnote_refused : exec (.setnote 3 1) (start 0 6) = .refused (.voiceOutOfRange 3) := rfl
theorem test_callback_refused : step (withArm [.callback 4 0 0] (start 0 6)) =
    .refused (.undecodable (.unknownCallbackCode 4)) := rfl

/-- F5: the third of its four bytes. -/
theorem test_armramwrite : after (fun t => getPtr t 5) (exec (.armramwrite 0x400006F6 0x50) (start 0 6)) =
    some 0x00500000 := by decide
/-- R64: the image is not written; the access ends the run. -/
theorem test_armramwrite_image : after (fun t => (t.sequencer, t.armFaulted, t.image))
    (exec (.armramwrite 0x00001000 0x50) (withArm [] (start 0 6))) = some (.idle, true, []) := by decide
theorem test_armramread : after (fun t => t.result)
    (exec (.armramread 0x40001FFF) (withRam 0x1FFF [0xC5] (start 0 6))) = some (.byte 0xC5) := by decide
theorem test_armromread : after (fun t => t.result)
    (exec (.armromread 0x7FFF) (withRom 6 0xFFF [0xEA] (start 0 6))) = some (.byte 0xEA) := by decide

/-! ### Host environment -/

/-- R271, R273: RAM from the driver template and `RAM_INIT`, bank 6, mode 0xFF. -/
theorem test_reset : after (fun t => (t.ram, t.currentBank, t.mode, t.audioCycles))
    (exec (.reset 1000)
      { start 0 2 with image := [(0x7E9, 1), (0x1000, 9)], ramInit := [(0, 0xEE)], ram := [(5, 5)] }) =
    some ([(0x7E9, 1), (0x800, 0xEE)], 6, 0xFF, 1000) := by decide
/-- R252, D7: the lock survives. -/
theorem test_reset_lock : after (fun t => t.bankLocked) (exec (.reset 0) { start 0 2 with bankLocked := true }) =
    some true := by decide

/-- R276: both baselines move by the offset. -/
theorem test_cyclesreset : after (fun t => (t.audioCycles.toInt, t.armCycles.toInt))
    (exec (.cyclesreset 1000) { start 0 2 with audioCycles := 999, armCycles := 1005 }) = some (-1, 5) := by decide

theorem test_setbanklock : after (fun t => t.bankLocked) (exec (.setbanklock true) (start 0 2)) = some true := by decide

/-- C5. -/
theorem test_patch : after (fun t => (t.result, t.image))
    (exec (.patch 0x1040 0x55) (withRom 3 0x40 [0x11] (start 0 3))) =
    some (.flag true, [(0x4040, 0x55)]) := by decide
theorem test_patch_low : after (fun t => (t.result, t.image)) (exec (.patch 0x103F 0x55) (start 0 3)) =
    some (.flag false, []) := by decide

theorem test_getbank : after (fun t => t.result) (exec .getbank (start 0 3)) = some (.bank 3) := by decide

/-! ### One step -/

/-- D4: the idle latch matches offset 0. -/
theorem test_step_offset0 : after (fun t => (t.result, getPtr t 5))
    (step (withHost [.peek 0x1000 0] (withRom 6 0 [0x05] (withStream 5 0x00500000 0x100
      (withRam 0x805 [0x85] (start 0 6)))))) = some (.byte 0x85, 0x00600000) := by decide +kernel
/-- D7b: the continuation does not look at the mode. -/
theorem test_step_continuation : after (fun t => (t.result, latches t))
    (step (withHost [.peek 0x1000 0] (withStream 33 0x02100000 0x100 (withRam 0x821 [0xA1]
      { start 0xFF 6 with fastJumpActive := 2 })))) = some (.byte 0xA1, (0, 1, 1)) := by decide +kernel
/-- D8b: a captured operand at a hotspot switches no bank. -/
theorem test_step_captureAtHotspot : after (fun t => (t.result, t.currentBank))
    (step (withHost [.peek 0x1FF6 0] (withRom 0 0xFF6 [0x05] (withStream 5 0x00500000 0x100
      (withRam 0x805 [0x85] { start 0 0 with ldaOperandAddr := 0xFF6 }))))) = some (.byte 0x85, 0) := by
  decide +kernel
/-- D10: the look-ahead runs into the next bank; D10b. -/
theorem test_step_lookAhead : ∀ x ∈ [((0 : Byte), (0xFFF, 2)), (1, (0, 0))],
    after (fun t => (t.result, t.jmpOperandAddr.toNat, t.fastJumpActive.toNat))
      (step (withHost [.peek 0x1FFE 0] (withRom 0 0xFFE [0x4C, 0, x.1] (start 0 0)))) =
      some (.byte 0x4C, x.2) := by decide +kernel
/-- C6: address bits 15..12 are ignored. -/
theorem test_step_mirrors :
    after (fun t => t.currentBank) (step (withHost [.poke 0x0FF6 0 0] (start 0xFF 6))) = some 1 ∧
      after (fun t => t.currentBank) (step (withHost [.peek 0xFFF6 0] (start 0xFF 6))) = some 1 := by decide +kernel
/-- R233: a run whose ARM neither acts nor ends. -/
theorem test_step_hangs : step (withArm [] (start 0 6)) = .fault .armRunNeverEnds := rfl
/-- With nothing requested the device stays as it is (log 9). -/
theorem test_step_idle : after id (step State.reset) = some State.reset := by decide

/-- A placed table word is the next operation, at every width (log 23). -/
theorem test_withFetchWord :
    after (fun t => (t.result, latches t)) (step (State.reset.withFetchWord 24 0x4C0000)) =
        some (.byte 0x4C, (0, 0x101, 2)) ∧
      after (fun t => (t.result, latches t)) (step (State.reset.withFetchWord 8 0xA9)) =
        some (.byte 0xA9, (0x101, 0, 0)) ∧
      after (fun t => t.sequencer) (step (State.reset.withFetchWord 8 0xFE)) = some (.running 0) ∧
      after (fun t => t.currentBank) (step (State.reset.withFetchWord 16 0xFF8)) = some 3 ∧
      after (fun t => t.result) (step (State.reset.withFetchWord 32 3)) = some (.word 0) := by decide +kernel

/-- Construction pads a short file with free bytes and refuses one below 2 KiB (R270, R274, U3). -/
theorem test_construct_refused : construct [0xA9, 0x05] [] .rational false 0 = .refused .imageTooShort := rfl
theorem test_constructedByte : constructedByte [0xA9, 0x05] 1 = 0x05 ∧
    constructedByte [0xA9, 0x05] 2 = Config.imageFill 2 := ⟨by decide, rfl⟩
/-- `install` selects bank 6 through `bank(n)` (R274). -/
theorem test_install : (install (start 0 2)).currentBank = 6 ∧
    (install { start 0 2 with bankLocked := true }).currentBank = 2 := by decide

/-! ### The hypotheses of the statements are met

One theorem for each statement with hypotheses, named after it; where a statement has several clauses over one
input, at values on both sides of where they meet. -/

/-- A state with every register away from its reset value, on the bounds of the invariant. -/
def lively : State := withStream 33 0xFFF00ABC 0x100 (withRom 6 0x200 [0x4C, 0, 0]
  { start 0 6 with
    ldaOperandAddr := 0x1000, jmpOperandAddr := 0x1000, fastJumpActive := 2, oscRem := 143182
    musicCounters := ⟨1, 2, 0xDEADBEEF⟩, ramInit := [(6143, 0xEE)], audioCycles := 7, armCycles := -1 })

theorem witness_EveryStepKeepsTheInvariant :
    Inv (withHost [.peek 0x1200 9] lively) ∧ ∃ t, step (withHost [.peek 0x1200 9] lively) = .next t :=
  ⟨⟨by decide, by decide, by decide, by decide, by decide +kernel, by decide +kernel, by decide⟩, _, rfl⟩

theorem witness_PeekStepIsTheReadTree :
    HostNext (withHost [.peek 0x1FF5 9, .getBank] lively) (.peek 0x1FF5 9) [.getBank] := ⟨rfl, rfl⟩

theorem witness_BankStaysWithoutHotspotAccess :
    let s := withHost [.peek 0x1FF4 0, .poke 0x1FFC 0 0, .setBankLock true, .patch 0x1FF5 1, .getBank] lively
    (∀ r ∈ s.hostQueue, leavesBank r = true) ∧ ∃ t, stepsTo 2 s t :=
  ⟨by decide, _, _, rfl, _, rfl, rfl⟩

theorem witness_ArmRunStaysInItsEnvelope :
    (withArm [.ramWrite 0x400006F6 0x50] lively).sequencer = .running 40 ∧
      ∃ t, step (withArm [.ramWrite 0x400006F6 0x50] lively) = .next t := ⟨rfl, _, rfl⟩

theorem witness_PokeNeitherReadsRomNorLatches :
    HostNext (withHost [.poke 0x1FF0 0x5A 0] lively) (.poke 0x1FF0 0x5A 0) [] ∧
      ∃ t, step (withHost [.poke 0x1FF0 0x5A 0] lively) = .next t := ⟨⟨rfl, rfl⟩, _, rfl⟩

/-- The first and the last stream. -/
theorem witness_StreamReadKeepsLowPointerBits :
    (∃ t, exec (streamRead 0) lively = .next t) ∧ ∃ t, exec (streamRead 33) lively = .next t := ⟨⟨_, rfl⟩, _, rfl⟩

theorem witness_AmplitudeAdvancesTheOscillator : lively.oscArith = .rational := rfl

theorem witness_AmplitudeUnderBinary64KeepsTheRationalResidue :
    { lively with oscArith := .f64Reference }.oscArith = .f64Reference := rfl

/-- Digital mode with a sample base and no counter. -/
def digitalAt (base : Word32) : State := { start 0 6 with ram := writeLE32 [] 0x7F0 base }

/-- Digital mode, with sample addresses at the ends of both regions and beside them, and bit 20 clear and set. -/
theorem witness_AmplitudeDigitalSampleIsTheNibble :
    sampleAddr (digitalAt 0x7FFF) = 0x7FFF ∧ sampleAddr (digitalAt 0x8000) = 0x8000 ∧
      sampleAddr (digitalAt 0x3FFFFFFF) = 0x3FFFFFFF ∧ sampleAddr (digitalAt 0x40000000) = 0x40000000 ∧
      sampleAddr (digitalAt 0x40001FFF) = 0x40001FFF ∧ sampleAddr (digitalAt 0x40002000) = 0x40002000 ∧
      digitalAudioOn (digitalAt 0x7FFF) = true ∧
      digitalAudioOn { start 0x0F 6 with musicCounters := ⟨0x00100000, 0, 0⟩ } = true := by decide +kernel

/-- Additive mode with no time passing: the indices and sizes of three voices. -/
def mixerAt (sizes : Voices Byte) (counters : Voices Word32) : State :=
  withRam 0x7F4 [0xFF, 0x17, 0x00, 0x40] { start 0xF0 6 with musicWaveformSize := sizes, musicCounters := counters }

/-- Voice 0 at index 6143 with size 0 and voice 1 with size 31 are closed; voice 0 at index 6144, and voice 1 with
size 32, are open. -/
theorem witness_AmplitudeAdditiveSampleIsTheSum :
    digitalAudioOn (mixerAt ⟨0, 31, 27⟩ ⟨2048, 0x80000000, 0⟩) = false ∧
      mixerIndex (mixerAt ⟨0, 31, 27⟩ ⟨2048, 0x80000000, 0⟩) 0 = 6143 ∧
      mixerIndex (mixerAt ⟨0, 31, 27⟩ ⟨2048, 0x80000000, 0⟩) 1 < 6144 ∧
      digitalAudioOn (mixerAt ⟨0, 32, 27⟩ ⟨2049, 0, 0⟩) = false ∧
      mixerIndex (mixerAt ⟨0, 32, 27⟩ ⟨2049, 0, 0⟩) 0 = 6144 ∧
      ¬ ((mixerAt ⟨0, 32, 27⟩ ⟨2049, 0, 0⟩).musicWaveformSize.get 1).toNat < 32 := by decide +kernel

/-- The second clause, at a plain offset, a hotspot and the last offset. -/
theorem witness_LdaOpcodeArmsTheLatch : ∀ a ∈ [(0x100 : Nat), 0xFF5, 0xFFF],
    let s := withRom 6 a [0xA9] { start 0 6 with ldaOperandAddr := 0x123 }
    let off := windowOffset (BitVec.ofNat 16 (0x1000 + a))
    s.bankLocked = false ∧ continuationAt s off = false ∧ fastFetchOn s = true ∧ ldaLatchAt s off = false ∧
      romByte s off = 0xA9 := by decide +kernel

/-- The second clause, at a plain offset and at the last one with both look-ahead bytes in the image. -/
theorem witness_JumpTriggerArmsTheFastJump : ∀ a ∈ [(0x200 : Nat), 0xFFD],
    let s := withRom 6 a [0x4C] (start 0 6)
    let off := windowOffset (BitVec.ofNat 16 (0x1000 + a))
    s.bankLocked = false ∧ continuationAt s off = false ∧ fastFetchOn s = true ∧ romByte s off = 0x4C ∧
      next1 s off = 0 ∧ next2 s off = 0 := by decide +kernel

theorem witness_JumpContinuationServesStream33 :
    let s := { start 0xFF 6 with fastJumpActive := 1, jmpOperandAddr := 0x202 }
    s.bankLocked = false ∧ s.fastJumpActive ≠ 0 ∧ (windowOffset 0x1202).setWidth 16 = s.jmpOperandAddr := by decide

theorem witness_TwoDsptrWritesLoadAnIndex :
    ∃ s1 s2, exec (.dsptr 0x12) lively = .next s1 ∧ exec (.dsptr 0x34) s1 = .next s2 := ⟨_, _, rfl, rfl⟩

/-- The first and the last hotspot. -/
theorem witness_BankWriteSwitchesUnlessLocked :
    (windowOffset 0x1FF5).toNat = 0xFF5 + (0 : Fin 7).val ∧ (windowOffset 0xFFFB).toNat = 0xFF5 + (6 : Fin 7).val := by
  decide

/-- Both ends of each range. -/
theorem witness_OtherWritesAreIgnored :
    (windowOffset 0x1000).toNat < 0xFF0 ∧ (windowOffset 0x1FEF).toNat < 0xFF0 ∧
      (windowOffset 0x1FF4).toNat = 0xFF4 ∧ 0xFFC ≤ (windowOffset 0x1FFC).toNat ∧
      0xFFC ≤ (windowOffset 0x1FFF).toNat := by decide

/-- The smallest and the largest budget. -/
theorem witness_CallfnStartsARunOfTheElapsedCycles :
    ((-2147483648 : Int) = (0 : Cycles).toInt - ({ lively with armCycles := 0x80000000 } : State).armCycles.toInt) ∧
      ((2147483647 : Int) = (0x7FFFFFFF : Cycles).toInt - ({ lively with armCycles := 0 } : State).armCycles.toInt) := by
  decide

/-- The budgets next to them. -/
theorem witness_CallfnBudgetOutsideI32IsRefused :
    ((-2147483649 : Int) = (-1 : Cycles).toInt - ({ lively with armCycles := 0x80000000 } : State).armCycles.toInt) ∧
      ((2147483648 : Int) = (0x7FFFFFFF : Cycles).toInt - lively.armCycles.toInt) := by decide

theorem witness_CallfnOtherValuesDoNothing : ∀ val ∈ [(0 : Byte), 253], val ≠ 254 ∧ val ≠ 255 := by decide

theorem witness_CallbackOnUnknownVoiceIsRefused : 3 ≤ (3 : Word32).toNat ∧ 3 ≤ (0xFFFFFFFF : Word32).toNat := by
  decide

theorem witness_CallbackCodeAboveThreeIsRefused :
    ArmNext (withArm [.callback 4 0 0, .finish false] lively) (.callback 4 0 0) [.finish false] ∧
      3 < (4 : Word32).toNat := ⟨⟨⟨40, rfl⟩, rfl⟩, by decide⟩

/-- Both ends of each region: the offsets allowed, and the operations run there. -/
theorem witness_ArmReadsAndWritesItsTwoRegions :
    (0 < 8192 ∧ 8191 < 8192 ∧ 0 < 0x8000 ∧ 32767 < 0x8000) ∧
      (∃ t, exec (.armramwrite (BitVec.ofNat 32 (0x40000000 + 8191)) 1) lively = .next t) ∧
      ∃ t, exec (.armromread (BitVec.ofNat 32 32767)) lively = .next t := ⟨by decide, ⟨_, rfl⟩, _, rfl⟩

/-- The addresses next to the regions, and the ends of the address space. -/
theorem witness_ArmAccessOutsideItsRegionsEndsTheRun :
    ((0 : Word32).toNat < 0x40000000 ∧ (0x3FFFFFFF : Word32).toNat < 0x40000000 ∧
      0x40002000 ≤ (0x40002000 : Word32).toNat ∧ 0x40002000 ≤ (0xFFFFFFFF : Word32).toNat) ∧
      0x8000 ≤ (0x8000 : Word32).toNat ∧ 0x8000 ≤ (0xFFFFFFFF : Word32).toNat := by decide

theorem witness_ArmRunEndsOrHangs :
    ArmNext (withArm [.finish true] lively) (.finish true) [] ∧
      ArmNext (withArm [.internal [1, 2], .finish false] lively) (.internal [1, 2]) [.finish false] ∧
      (withArm [] lively).sequencer = .running 40 ∧ (withArm [] lively).armQueue = [] :=
  ⟨⟨⟨40, rfl⟩, rfl⟩, ⟨⟨40, rfl⟩, rfl⟩, rfl, rfl⟩

theorem witness_AfterResetModeBankAndStreamsAreInitial :
    ∃ t, exec (.reset 1000) lively = .next t ∧ t.bankLocked = false := ⟨_, rfl, rfl⟩

/-- Differences at both ends of an i64. -/
theorem witness_CyclesResetShiftsBothBaselines :
    let s := { lively with audioCycles := -1, armCycles := 0 }
    (-9223372036854775808 : Int) = s.audioCycles.toInt - (0x7FFFFFFFFFFFFFFF : Cycles).toInt ∧
      (9223372036854775807 : Int) = s.audioCycles.toInt - (0x8000000000000000 : Cycles).toInt ∧
      (-9223372036854775807 : Int) = s.armCycles.toInt - (0x7FFFFFFFFFFFFFFF : Cycles).toInt := by decide

/-- In digital mode, and in additive mode with every term closed; both baselines stay in i64, and a run starts. -/
theorem witness_CyclesResetKeepsLaterDeltas :
    let s := { mixerAt ⟨0, 31, 27⟩ ⟨2048, 0x80000000, 0⟩ with audioCycles := 7, armCycles := -1 }
    (990 : Cycles).toInt = (1000 : Cycles).toInt - (10 : Cycles).toInt ∧
      (∃ s1 t t1, exec (.cyclesreset 10) s = .next s1 ∧ exec (.amplitude 1000) s = .next t ∧
        exec (.amplitude 990) s1 = .next t1) ∧
      -9223372036854775808 ≤ s.audioCycles.toInt - (10 : Cycles).toInt ∧
      s.audioCycles.toInt - (10 : Cycles).toInt < 9223372036854775808 ∧
      -9223372036854775808 ≤ s.armCycles.toInt - (10 : Cycles).toInt ∧
      s.armCycles.toInt - (10 : Cycles).toInt < 9223372036854775808 ∧
      (∃ u, exec (.callfnRun254 1000) s = .next u) ∧ digitalAudioOn lively = true ∧
      after (fun t => (List.finRange 3).all fun v => decide ((s.musicWaveformSize.get v).toNat < 32) &&
        decide (getWaveform s v + (t.musicCounters.get v).toNat / 2 ^ (s.musicWaveformSize.get v).toNat < 6144))
        (exec (.amplitude 1000) s) = some true :=
  ⟨by decide, ⟨_, _, _, rfl, rfl, rfl⟩, by decide, by decide, by decide, by decide, ⟨_, rfl⟩, by decide,
    by decide +kernel⟩

/-- The offsets where the two cases meet, and the last one. -/
theorem witness_PatchWritesTheCurrentBankFrom0x40Up :
    ¬ 0x40 ≤ (0x103F : Word16).toNat % 4096 ∧ 0x40 ≤ (0x1040 : Word16).toNat % 4096 ∧
      0x40 ≤ (0x1FFF : Word16).toNat % 4096 := by decide

theorem witness_StepRunsTheDecodedOperation :
    (HostNext (withHost [.poke 0x1FF1 0x12 0] lively) (.poke 0x1FF1 0x12 0) [] ∧
      decode (hostPacket (takeHost [] (withHost [.poke 0x1FF1 0x12 0] lively)) (.poke 0x1FF1 0x12 0)) =
        .ok (.dsptr 0x12) ∧ (Instr.dsptr 0x12).wellFormed = true) ∧
    (ArmNext (withArm [.callback 2 1 0] lively) (.callback 2 1 0) [] ∧
      decode (callbackPacket 2 1 0) = .ok (.getwaveptr 1) ∧ (Instr.getwaveptr 1).wellFormed = true) ∧
    ArmNext (withArm [.ramRead 0x40000000] lively) (.ramRead 0x40000000) [] ∧
    ArmNext (withArm [.romRead 0x7FFF] lively) (.romRead 0x7FFF) [] ∧
    ArmNext (withArm [.ramWrite 0x40001FFF 1] lively) (.ramWrite 0x40001FFF 1) [] :=
  ⟨⟨⟨rfl, rfl⟩, rfl, rfl⟩, ⟨⟨⟨40, rfl⟩, rfl⟩, rfl, rfl⟩, ⟨⟨40, rfl⟩, rfl⟩, ⟨⟨40, rfl⟩, rfl⟩, ⟨40, rfl⟩, rfl⟩

/-- A packet that decodes, and an address at each of the four write ports (R90, R200). -/
theorem witness_EveryHostOperationDecodes :
    decode ⟨.callfnArg, [253, 0, 0, 0, 0, 0, 0, 0, 0]⟩ = .ok (.callfnNop 253) ∧
      (windowOffset 0x1FF0).toNat = 0xFF0 ∧ (windowOffset 0xFFF1).toNat = 0xFF1 ∧
      (windowOffset 0x0FF2).toNat = 0xFF2 ∧ (windowOffset 0x1FF3).toNat = 0xFF3 :=
  ⟨rfl, by decide, by decide, by decide, by decide⟩

/-- The Poke clause on both sides of CALLFN: another port, and CALLFN with 253. -/
theorem witness_EveryPeekAndPokeAnswers :
    HostNext (withHost [.peek 0x1000 5] lively) (.peek 0x1000 5) [] ∧
      HostNext (withHost [.poke 0x1FF2 254 5] lively) (.poke 0x1FF2 254 5) [] ∧ windowOffset 0x1FF2 ≠ 0xFF3 ∧
      HostNext (withHost [.poke 0x1FF3 253 5] lively) (.poke 0x1FF3 253 5) [] ∧
      (253 : Byte) ≠ 254 ∧ (253 : Byte) ≠ 255 :=
  ⟨⟨rfl, rfl⟩, ⟨rfl, rfl⟩, by decide, ⟨rfl, rfl⟩, by decide, by decide⟩

theorem witness_LockedPeekChangesNothing :
    HostNext (withHost [.peek 0x1FF6 5] { lively with bankLocked := true }) (.peek 0x1FF6 5) [] ∧
      (withHost [.peek 0x1FF6 5] { lively with bankLocked := true }).bankLocked = true := ⟨⟨rfl, rfl⟩, rfl⟩

theorem witness_PlainPeekWithFastFetchOff :
    let s := withHost [.peek 0x1FF6 5] { lively with mode := 0xF1, fastJumpActive := 0 }
    HostNext s (.peek 0x1FF6 5) [] ∧ s.bankLocked = false ∧ s.mode.toNat % 16 ≠ 0 ∧ s.fastJumpActive = 0 :=
  ⟨⟨rfl, rfl⟩, rfl, by decide, rfl⟩

theorem witness_AddressBitsAboveElevenAreIgnored :
    lively.sequencer = .idle ∧ (0x1FF6 : Word16).toNat % 4096 = (0xFFF6 : Word16).toNat % 4096 := by decide

/-- The first and the last stream, the operand at the last offset for the latter. -/
theorem witness_LoadImmediatePairReadsAStream : ∀ x ∈ [((0x100 : Nat), (0 : Byte)), (0xFFE, 33)],
    let addr : Word16 := BitVec.ofNat 16 (0x1000 + x.1)
    let s := withHost [.peek addr 0, .peek (addr + 1) 1] (withRom 6 x.1 [0xA9, x.2] (start 0 6))
    s.sequencer = .idle ∧ s.hostQueue = [.peek addr 0, .peek (addr + 1) 1] ∧ s.bankLocked = false ∧
      fastFetchOn s = true ∧ s.fastJumpActive = 0 ∧ (windowOffset addr).toNat < 0xFFF ∧
      isHotspot (windowOffset addr) = false ∧ romByte s (windowOffset addr) = 0xA9 ∧
      romByte s (windowOffset (addr + 1)) = x.2 := by decide +kernel

/-- A plain offset and the last one at which both operand bytes lie in the bank. -/
theorem witness_FastJumpServesExactlyTwoBytes : ∀ o ∈ [(0x200 : Nat), 0xFFD],
    let addr : Word16 := BitVec.ofNat 16 (0x1000 + o)
    let s := withHost [.peek addr 0, .peek (addr + 1) 1, .peek (addr + 2) 2] (withRom 6 o [0x4C] (start 0 6))
    s.sequencer = .idle ∧ s.hostQueue = [.peek addr 0, .peek (addr + 1) 1, .peek (addr + 2) 2] ∧
      s.bankLocked = false ∧ fastFetchOn s = true ∧ continuationAt s (windowOffset addr) = false ∧
      (windowOffset addr).toNat ≤ 0xFFD ∧ romByte s (windowOffset addr) = 0x4C ∧
      romByte s (windowOffset (addr + 1)) = 0 ∧ romByte s (windowOffset (addr + 2)) = 0 := by decide +kernel

theorem witness_LookAheadRunsIntoTheNextBank :
    (start 0 0).currentBank.val < 6 ∧ (start 0 5).currentBank.val < 6 := by decide

theorem witness_ImageChangesByPatchOnly :
    ∃ t, exec (.patch 0x1040 0x55) lively = .next t ∧ t.image ≠ lively.image := ⟨_, rfl, by decide +kernel⟩

theorem witness_ModeChangesBySetmodeAndResetOnly :
    (∃ t, exec (.setmode 0x12) lively = .next t ∧ t.mode ≠ lively.mode) ∧
      (∃ t, exec (.reset 0) lively = .next t ∧ t.mode ≠ lively.mode) ∧
      ∃ t, exec (.setbanklock true) lively = .next t ∧ t.bankLocked ≠ lively.bankLocked :=
  ⟨⟨_, rfl, by decide⟩, ⟨_, rfl, by decide⟩, _, rfl, by decide⟩

theorem witness_MusicRegistersHaveTheirOwnWriters :
    (∃ t, exec (.resetwave 2) lively = .next t ∧ t.musicCounters ≠ lively.musicCounters) ∧
      (∃ t, exec (.setnote 0 5) lively = .next t ∧ t.musicFrequencies ≠ lively.musicFrequencies) ∧
      (∃ t, exec (.setwavesize 0 5) lively = .next t ∧ t.musicWaveformSize ≠ lively.musicWaveformSize) ∧
      ∃ t, exec (.amplitude 100) lively = .next t ∧ t.audioCycles ≠ lively.audioCycles :=
  ⟨⟨_, rfl, by decide⟩, ⟨_, rfl, by decide⟩, ⟨_, rfl, by decide⟩, _, rfl, by decide⟩

theorem witness_IncrementsAndWaveformsChangeByArmAndResetOnly :
    (∃ t, exec (.dswrite 1) lively = .next t) ∧ (∀ now, Instr.dswrite 1 ≠ .reset now) ∧
      ∀ x val, Instr.dswrite 1 ≠ .armramwrite x val := ⟨⟨_, rfl⟩, nofun, nofun⟩

/-- Finite patterns (1.0 and 3.0) with a finite sum, difference and quotient, and a zero and a negative operand. -/
theorem witness_Binary64RoundsToNearestEven :
    f64Finite 0x3FF0000000000000 ∧ f64Finite 0x4008000000000000 ∧ f64Number 0x3FF0000000000000 = 1 ∧
      f64Number 0x4008000000000000 = 3 ∧ f64Number 0xBFF0000000000000 = -1 ∧ f64Number 0 = 0 ∧
      |(1 : ℚ) + 3| ≤ f64Largest ∧ |(1 : ℚ) - 3| ≤ f64Largest ∧ (3 : ℚ) ≠ 0 ∧ |(1 : ℚ) / 3| ≤ f64Largest ∧
      |((-1 : Int) : ℚ) / (3 : Nat)| ≤ f64Largest := by decide +kernel

end Sys2Proof.Tests
end

section
/-! PROOFS, family 00_scope: what every packet decodes to, what a step runs, what no operation changes. -/

/-! ### The decoder: each agent's packet and the row it decodes to (30_encoding.md R90 to R105) -/

namespace Sys2Proof

/-- The low bytes of a number written in more bytes. -/
theorem take_bytesOf {k n : Nat} (v : Nat) (h : k ≤ n) : (bytesOf n v).take k = bytesOf k v := by
  induction k generalizing n v with
  | zero => rfl
  | succ k ih =>
    obtain ⟨m, rfl⟩ : ∃ m, n = m + 1 := ⟨n - 1, by omega⟩
    rw [bytesOf, bytesOf, List.take_succ_cons, ih _ (by omega)]

/-- Byte `k` of a number written in more than `k` bytes. -/
theorem byteAt_bytesOf {k n : Nat} (v : Nat) (h : k < n) :
    byteAt (bytesOf n v) k = BitVec.ofNat 8 (v / 256 ^ k) := by
  induction k generalizing n v with
  | zero =>
    obtain ⟨m, rfl⟩ : ∃ m, n = m + 1 := ⟨n - 1, by omega⟩
    simp [byteAt, bytesOf]
  | succ k ih =>
    obtain ⟨m, rfl⟩ : ∃ m, n = m + 1 := ⟨n - 1, by omega⟩
    have hk := ih (v / 256) (show k < m by omega)
    rw [Nat.div_div_eq_div_mul, ← Nat.pow_succ'] at hk
    exact hk

/-! #### ENV_OP packets: a serial byte, then eight bytes of operands -/

/-- The first operand of an ENV_OP packet. -/
theorem field_env (serial : Byte) (v w : Nat) {n : Nat} (h : n ≤ 8) :
    field (serial :: bytesOf 8 v) 1 n w = BitVec.ofNat w (v % 256 ^ n) := by
  simp [field, take_bytesOf v h, leNat_bytesOf]

/-- A single operand byte of an ENV_OP packet. -/
theorem byteAt_env (serial : Byte) (v : Nat) {k : Nat} (h : k < 8) :
    byteAt (serial :: bytesOf 8 v) (k + 1) = BitVec.ofNat 8 (v / 256 ^ k) :=
  byteAt_bytesOf v h

theorem decode_envPacket (serial : Byte) (v : Nat) :
    decode (envPacket serial v) = decodeEnvOp serial (serial :: bytesOf 8 v) :=
  decode_of_length (by simp [envPacket, Port.packetLength])

theorem decode_encode_reset (now : Cycles) : decode (encode (.reset now)) = .ok (.reset now) :=
  calc decode (encode (.reset now))
      = .ok (.reset (field (0 :: bytesOf 8 now.toNat) 1 8 64)) := decode_envPacket 0 now.toNat
    _ = .ok (.reset now) := by rw [field_env _ _ _ le_rfl, ofNat_mod_bytes now (by decide)]

theorem decode_encode_cyclesreset (offset : Cycles) :
    decode (encode (.cyclesreset offset)) = .ok (.cyclesreset offset) :=
  calc decode (encode (.cyclesreset offset))
      = .ok (.cyclesreset (field (1 :: bytesOf 8 offset.toNat) 1 8 64)) := decode_envPacket 1 offset.toNat
    _ = .ok (.cyclesreset offset) := by rw [field_env _ _ _ le_rfl, ofNat_mod_bytes offset (by decide)]

theorem decode_encode_setbanklock (b : Bool) : decode (encode (.setbanklock b)) = .ok (.setbanklock b) := by
  cases b <;> rfl

theorem decode_encode_getbank : decode (encode .getbank) = .ok .getbank := rfl

/-- A two-byte address below a data byte is read back (PATCH, R251). -/
theorem decode_encode_patch (addr : Word16) (val : Byte) :
    decode (encode (.patch addr val)) = .ok (.patch addr val) := by
  have haddr : (addr.toNat + 65536 * val.toNat) % 256 ^ 2 = addr.toNat := by have := addr.isLt; omega
  have hval : (addr.toNat + 65536 * val.toNat) / 256 ^ 2 = val.toNat := by have := addr.isLt; omega
  calc decode (encode (.patch addr val))
      = .ok (.patch (field (3 :: bytesOf 8 (addr.toNat + 65536 * val.toNat)) 1 2 16)
          (byteAt (3 :: bytesOf 8 (addr.toNat + 65536 * val.toNat)) 3)) := decode_envPacket 3 _
    _ = .ok (.patch addr val) := by
        rw [field_env _ _ _ (by decide), byteAt_env (k := 2) _ _ (by decide), haddr, hval, BitVec.ofNat_toNat,
          BitVec.ofNat_toNat, BitVec.setWidth_eq, BitVec.setWidth_eq]

theorem decode_encode_armramread (x : Word32) : decode (encode (.armramread x)) = .ok (.armramread x) :=
  calc decode (encode (.armramread x))
      = .ok (.armramread (field (5 :: bytesOf 8 x.toNat) 1 4 32)) := decode_envPacket 5 x.toNat
    _ = .ok (.armramread x) := by rw [field_env _ _ _ (by decide), ofNat_mod_bytes x (by decide)]

theorem decode_encode_armromread (x : Word32) : decode (encode (.armromread x)) = .ok (.armromread x) :=
  calc decode (encode (.armromread x))
      = .ok (.armromread (field (6 :: bytesOf 8 x.toNat) 1 4 32)) := decode_envPacket 6 x.toNat
    _ = .ok (.armromread x) := by rw [field_env _ _ _ (by decide), ofNat_mod_bytes x (by decide)]

/-- A four-byte address below a data byte is read back (ARMRAMWRITE, R225). -/
theorem decode_encode_armramwrite (x : Word32) (val : Byte) :
    decode (encode (.armramwrite x val)) = .ok (.armramwrite x val) := by
  have hx : (x.toNat + 4294967296 * val.toNat) % 256 ^ 4 = x.toNat := by have := x.isLt; omega
  have hval : (x.toNat + 4294967296 * val.toNat) / 256 ^ 4 = val.toNat := by have := x.isLt; omega
  calc decode (encode (.armramwrite x val))
      = .ok (.armramwrite (field (7 :: bytesOf 8 (x.toNat + 4294967296 * val.toNat)) 1 4 32)
          (byteAt (7 :: bytesOf 8 (x.toNat + 4294967296 * val.toNat)) 5)) := decode_envPacket 7 _
    _ = .ok (.armramwrite x val) := by
        rw [field_env _ _ _ (by decide), byteAt_env (k := 4) _ _ (by decide), hx, hval, BitVec.ofNat_toNat,
          BitVec.ofNat_toNat, BitVec.setWidth_eq, BitVec.setWidth_eq]

/-! #### What a port decodes is well-formed -/

@[simp] theorem bankReadRow_wellFormed (n : Fin 7) : (bankReadRow n).wellFormed = true := by fin_cases n <;> rfl

@[simp] theorem bankWriteRow_wellFormed (n : Fin 7) (val : Byte) : (bankWriteRow n val).wellFormed = true := by
  fin_cases n <;> rfl

@[simp] theorem streamRead_wellFormed (i : Fin 34) : (streamRead i).wellFormed = true := by fin_cases i <;> rfl

theorem decodeHostRead_wellFormed (a : Offset) : (decodeHostRead a).wellFormed = true := by
  unfold decodeHostRead
  split
  · exact bankReadRow_wellFormed _
  · rfl

/-- What no port and no hotspot takes is no write port (R92, R207). -/
theorem isWritePort_eq_false {a : Offset} (h0 : a ≠ 0xFF0) (h1 : a ≠ 0xFF1) (h2 : a ≠ 0xFF2) (h3 : a ≠ 0xFF3)
    (hb : hotspotBank? a = none) : isWritePort a = false := by
  have hh : isHotspot a = false := by rw [← hotspotBank?_isSome, hb]; rfl
  have e0 : a.toNat ≠ 0xFF0 := offset_ne h0
  have e1 : a.toNat ≠ 0xFF1 := offset_ne h1
  have e2 : a.toNat ≠ 0xFF2 := offset_ne h2
  have e3 : a.toNat ≠ 0xFF3 := offset_ne h3
  have hp : ¬ (0xFF0 ≤ a.toNat ∧ a.toNat ≤ 0xFF3) := by omega
  rw [isWritePort, hh, Bool.or_false, ← Bool.decide_and]
  exact decide_eq_false hp

theorem decodeHostWrite_wellFormed (a : Offset) (val : Byte) (now : Cycles) :
    (decodeHostWrite a val now).wellFormed = true := by
  unfold decodeHostWrite
  split_ifs with h0 h1 h2 h3
  · rfl
  · rfl
  · rfl
  · rfl
  · split
    · exact bankWriteRow_wellFormed _ _
    · next hb => simp only [Instr.wellFormed, isWritePort_eq_false h0 h1 h2 h3 hb, Bool.not_false]

theorem decodeOpcode_wellFormed {rom n1 n2 : Byte} {a : Offset} {i : Instr} (h : decodeOpcode rom n1 n2 a = .ok i) :
    i.wellFormed = true := by
  unfold decodeOpcode at h
  split_ifs at h
  all_goals
    cases h
    rfl

/-- An operand that is no stream and not AMPLITUDE is above 0x22 (R95). -/
theorem decodeOperand_wellFormed (rom : Byte) (a : Offset) (now : Cycles) :
    (decodeOperand rom a now).wellFormed = true := by
  unfold decodeOperand
  split_ifs with hs ha
  · exact streamRead_wellFormed _
  · rfl
  · have hne : rom.toNat ≠ 0x22 := fun e => ha (BitVec.eq_of_toNat_eq e)
    have hlt : (0x22 : Byte) < rom := by rw [BitVec.lt_def]; show 34 < rom.toNat; omega
    exact decide_eq_true hlt

theorem decodeCallfnArg_wellFormed (val : Byte) (now : Cycles) : (decodeCallfnArg val now).wellFormed = true := by
  unfold decodeCallfnArg
  split_ifs with h254 h255
  · rfl
  · rfl
  · simp only [Instr.wellFormed, ne_eq, h254, h255, not_false_eq_true, decide_true, Bool.and_self]

theorem decodeCallback_wellFormed {code a1 a2 : Word32} {i : Instr} (h : decodeCallback code a1 a2 = .ok i) :
    i.wellFormed = true := by
  unfold decodeCallback at h
  split_ifs at h
  all_goals
    cases h
    rfl

theorem decodeBool_wellFormed {b : Byte} {i : Instr} (h : decodeBool b = .ok i) : i.wellFormed = true := by
  unfold decodeBool at h
  split_ifs at h
  all_goals
    cases h
    rfl

theorem decodeEnvOp_wellFormed {serial : Byte} {bs : List Byte} {i : Instr} (h : decodeEnvOp serial bs = .ok i) :
    i.wellFormed = true := by
  unfold decodeEnvOp at h
  split_ifs at h
  · cases h; rfl
  · cases h; rfl
  · exact decodeBool_wellFormed h
  all_goals
    cases h
    rfl

/-- Whatever a port finds is well-formed (R105). -/
theorem decodeAt_wellFormed {p : Port} {bs : List Byte} {i : Instr} (h : decodeAt p bs = .ok i) :
    i.wellFormed = true := by
  cases p with
  | hostRead => cases h; exact decodeHostRead_wellFormed _
  | jumpContinuation => cases h; rfl
  | lockedRead => cases h; rfl
  | hostWrite => cases h; exact decodeHostWrite_wellFormed _ _ _
  | ffOpcode => exact decodeOpcode_wellFormed h
  | ffOperand => cases h; exact decodeOperand_wellFormed _ _ _
  | callfnArg => cases h; exact decodeCallfnArg_wellFormed _ _
  | armCallback => exact decodeCallback_wellFormed h
  | envOp => exact decodeEnvOp_wellFormed h

theorem decode_wellFormed {p : Packet} {i : Instr} (h : decode p = .ok i) : i.wellFormed = true := by
  unfold decode at h
  split at h
  · cases h
  · exact decodeAt_wellFormed h

end Sys2Proof
end

section
/-! ### The row of each host operation (00_scope.md R8) -/

namespace Sys2Proof.Machine

theorem windowOffset_toNat (addr : Word16) : (windowOffset addr).toNat = addr.toNat % 4096 := by
  rw [windowOffset, BitVec.toNat_setWidth]

/-- Two addresses have one window offset exactly if they agree in the low 12 bits (R14, R90). -/
theorem windowOffset_eq_iff {addr addr' : Word16} :
    windowOffset addr = windowOffset addr' ↔ addr.toNat % 4096 = addr'.toNat % 4096 := by
  rw [← BitVec.toNat_inj, windowOffset_toNat, windowOffset_toNat]

theorem windowOffset_eq_of_toNat {addr : Word16} {a : Offset} (h : (windowOffset addr).toNat = a.toNat) :
    windowOffset addr = a := BitVec.eq_of_toNat_eq h

/-- The row a Peek at an offset decodes to, in the order of the read tree (R105, R172; log 22). -/
def peekRow (s : State) (a : Offset) (now : Cycles) : Instr :=
  if s.bankLocked then .romread a
  else if continuationAt s a then .jmpCont a
  else if fastFetchOn s && jumpPatternAt s a then .jmpFast a
  else if fastFetchOn s && ldaLatchAt s a then decodeOperand (romByte s a) a now
  else if fastFetchOn s && decide (romByte s a = 0xA9) then .ldaImm a
  else decodeHostRead a

/-- The row a Poke at an offset decodes to, CALLFN decoded further (R92, R205). -/
def pokeRow (a : Offset) (val : Byte) (now : Cycles) : Instr :=
  if a = 0xFF3 then decodeCallfnArg val now else decodeHostWrite a val now

/-- The row a host operation decodes to. -/
def hostRow (s : State) : HostRequest → Instr
  | .peek addr now => peekRow s (windowOffset addr) now
  | .poke addr val now => pokeRow (windowOffset addr) val now
  | .reset now => .reset now
  | .cyclesReset offset => .cyclesreset offset
  | .setBankLock b => .setbanklock b
  | .patch addr val => .patch addr val
  | .getBank => .getbank

/-- The jump pattern at an offset decodes to JMP.FAST (R94). -/
theorem decodeOpcode_of_jumpPattern {s : State} {a : Offset} (h : jumpPatternAt s a = true) :
    decodeOpcode (romByte s a) (next1 s a) (next2 s a) a = .ok (.jmpFast a) := by
  simp only [jumpPatternAt, Bool.and_eq_true, decide_eq_true_eq] at h
  obtain ⟨⟨hrom, h1⟩, h2⟩ := h
  exact if_pos ⟨hrom, h1, h2⟩

/-- An `A9` byte decodes to LDA.IMM (R94). -/
theorem decodeOpcode_of_A9 {rom : Byte} (n1 n2 : Byte) (a : Offset) (h : rom = 0xA9) :
    decodeOpcode rom n1 n2 a = .ok (.ldaImm a) := by
  subst h
  rfl

theorem decode_peekPacket (s : State) (addr : Word16) (now : Cycles) :
    decode (peekPacket s addr now) = .ok (peekRow s (windowOffset addr) now) := by
  unfold peekPacket readPort peekRow
  simp only
  generalize windowOffset addr = a
  split_ifs with hlock hcont hjump hlda hA9
  · exact decode_offsetPacket (f := .romread) a rfl fun _ => rfl
  · exact decode_offsetPacket (f := .jmpCont) a rfl fun _ => rfl
  · rw [Bool.and_eq_true] at hjump
    exact (decode_opcodePacket _ _ _ a).trans (decodeOpcode_of_jumpPattern hjump.2)
  · exact decode_operandPacket (romByte s a) a now
  · rw [Bool.and_eq_true, decide_eq_true_eq] at hA9
    exact (decode_opcodePacket _ _ _ a).trans (decodeOpcode_of_A9 _ _ a hA9.2)
  · exact decode_offsetPacket (f := decodeHostRead) a rfl fun _ => rfl

theorem decode_pokePacket (addr : Word16) (val : Byte) (now : Cycles) :
    decode (pokePacket addr val now) = .ok (pokeRow (windowOffset addr) val now) := by
  unfold pokePacket pokeRow
  split_ifs with hcall
  · exact decode_callfnPacket val now
  · exact decode_writePacket val now addr.isLt

/-- Every host operation decodes, to its row. -/
theorem decode_hostPacket (s : State) (r : HostRequest) : decode (hostPacket s r) = .ok (hostRow s r) := by
  cases r with
  | peek addr now => exact decode_peekPacket s addr now
  | poke addr val now => exact decode_pokePacket addr val now
  | reset now => exact decode_encode_reset now
  | cyclesReset offset => exact decode_encode_cyclesreset offset
  | setBankLock b => exact decode_encode_setbanklock b
  | patch addr val => exact decode_encode_patch addr val
  | getBank => exact decode_encode_getbank

/-- A Poke's packet at a known window offset. -/
theorem decode_poke_at {addr : Word16} {a : Offset} (s : State) (val : Byte) (now : Cycles)
    (h : (windowOffset addr).toNat = a.toNat) :
    decode (hostPacket s (.poke addr val now)) = .ok (pokeRow a val now) := by
  rw [decode_hostPacket, hostRow, windowOffset_eq_of_toNat h]

/-- Settles O46, from the row that each host operation decodes to and from what each port decodes. -/
theorem everyHostOperationDecodes : Obligations.EveryHostOperationDecodes := by
  refine ⟨fun s r => ⟨hostRow s r, decode_hostPacket s r, decode_wellFormed (decode_hostPacket s r)⟩,
    fun s addr val now => ⟨?dswrite, ?dsptr, ?setmode, ?callfn⟩,
    fun s now offset b addr val => ⟨decode_hostPacket s (.reset now), decode_hostPacket s (.cyclesReset offset),
      decode_hostPacket s (.setBankLock b), decode_hostPacket s (.patch addr val), decode_hostPacket s .getBank⟩,
    fun p i => decode_wellFormed⟩
  case dswrite => exact decode_poke_at (a := 0xFF0) s val now
  case dsptr => exact decode_poke_at (a := 0xFF1) s val now
  case setmode => exact decode_poke_at (a := 0xFF2) s val now
  case callfn => exact decode_poke_at (a := 0xFF3) s val now

end Sys2Proof.Machine
end

section
/-! ### What a step runs (00_scope.md R10, 45_arm_bridge.md R223) -/

namespace Sys2Proof.Machine

theorem runPacket_of_decode {p : Packet} {i : Instr} (s : State) (h : decode p = .ok i) :
    runPacket p s = exec i s := by
  simp [runPacket, h]

/-- The next host operation's packet is run, off the queue and under a fresh draw number. -/
theorem step_of_hostNext {s : State} {r : HostRequest} {rest : List HostRequest} (h : HostNext s r rest) :
    step s = runPacket (hostPacket (takeHost rest s) r) (takeHost rest s) := by
  obtain ⟨hseq, hqueue⟩ := h
  simp [step, stepHost, hseq, hqueue]

/-- A step on the next host operation is the meaning of its row. -/
theorem step_hostRow {s : State} {r : HostRequest} {rest : List HostRequest} (h : HostNext s r rest) :
    step s = exec (hostRow (takeHost rest s) r) (takeHost rest s) := by
  rw [step_of_hostNext h, runPacket_of_decode _ (decode_hostPacket _ r)]

/-- During a run a step is the ARM's. -/
theorem step_of_armNext {s : State} {r : ArmRequest} {rest : List ArmRequest} (h : ArmNext s r rest) :
    step s = stepArm s := by
  obtain ⟨⟨budget, hseq⟩, -⟩ := h
  simp [step, hseq]

theorem step_callback {s : State} {code a1 a2 : Word32} {rest : List ArmRequest}
    (h : ArmNext s (.callback code a1 a2) rest) :
    step s = runPacket (callbackPacket code a1 a2) (takeArm rest s) := by
  rw [step_of_armNext h, stepArm, h.2]

theorem step_ramRead {s : State} {x : Word32} {rest : List ArmRequest} (h : ArmNext s (.ramRead x) rest) :
    step s = exec (.armramread x) (takeArm rest s) := by
  rw [step_of_armNext h, stepArm, h.2]
  exact runPacket_of_decode _ (decode_encode_armramread x)

theorem step_romRead {s : State} {x : Word32} {rest : List ArmRequest} (h : ArmNext s (.romRead x) rest) :
    step s = exec (.armromread x) (takeArm rest s) := by
  rw [step_of_armNext h, stepArm, h.2]
  exact runPacket_of_decode _ (decode_encode_armromread x)

theorem step_ramWrite {s : State} {x : Word32} {val : Byte} {rest : List ArmRequest}
    (h : ArmNext s (.ramWrite x val) rest) : step s = exec (.armramwrite x val) (takeArm rest s) := by
  rw [step_of_armNext h, stepArm, h.2]
  exact runPacket_of_decode _ (decode_encode_armramwrite x val)

/-- Settles O45, from the step of each agent and the decoding of its packets. -/
theorem stepRunsTheDecodedOperation : Obligations.StepRunsTheDecodedOperation := by
  refine ⟨fun s r rest i hnext hdec _ => ?host, fun s code a1 a2 rest i hnext hdec _ => ?callback,
    fun a1 a2 => ?codes, fun s x val rest => ⟨step_ramRead, step_romRead, step_ramWrite⟩⟩
  case host => exact (step_of_hostNext hnext).trans (runPacket_of_decode _ hdec)
  case callback => exact (step_callback hnext).trans (runPacket_of_decode _ hdec)
  case codes =>
    simp only [decode_callbackPacket]
    exact ⟨rfl, rfl, rfl, rfl⟩

/-- The step of a host operation put on the queue of an idle device. -/
theorem step_queued {s : State} (r : HostRequest) (rest : List HostRequest) (hidle : s.sequencer = .idle) :
    step { s with hostQueue := r :: rest } = exec (hostRow (takeHost rest s) r) (takeHost rest s) :=
  step_hostRow (s := { s with hostQueue := r :: rest }) ⟨hidle, rfl⟩

/-- A Peek's row depends on its window offset only (R90). -/
theorem hostRow_peek_congr (s : State) {addr addr' : Word16} (now : Cycles)
    (h : windowOffset addr = windowOffset addr') : hostRow s (.peek addr now) = hostRow s (.peek addr' now) :=
  congrArg (peekRow s · now) h

/-- A Poke's row depends on its window offset and its data only (R90). -/
theorem hostRow_poke_congr (s : State) {addr addr' : Word16} (val : Byte) (now : Cycles)
    (h : windowOffset addr = windowOffset addr') :
    hostRow s (.poke addr val now) = hostRow s (.poke addr' val now) :=
  congrArg (pokeRow · val now) h

/-- Settles O50: the row of a Peek or Poke is a function of the window offset. -/
theorem addressBitsAboveElevenAreIgnored : Obligations.AddressBitsAboveElevenAreIgnored := by
  intro s addr addr' val now rest hidle haddr
  have hoff : windowOffset addr = windowOffset addr' := windowOffset_eq_iff.2 haddr
  constructor
  · rw [step_queued _ _ hidle, step_queued _ _ hidle, hostRow_peek_congr _ now hoff]
  · rw [step_queued _ _ hidle, step_queued _ _ hidle, hostRow_poke_congr _ val now hoff]

end Sys2Proof.Machine
end

section
/-! ### Case analysis over the rows, the stream reads and the bank rows by their number -/

namespace Sys2Proof

/-- To show a property of every row: the 34 stream reads and the bank rows by their number, the others by
themselves. -/
theorem Instr.rowCases {motive : Instr → Prop}
    (streamRead : ∀ k, motive (streamRead k))
    (bankRead : ∀ n, motive (bankReadRow n))
    (bankWrite : ∀ n val, motive (bankWriteRow n val))
    (jmpCont : ∀ a, motive (.jmpCont a))
    (romread : ∀ a, motive (.romread a))
    (dswrite : ∀ val, motive (.dswrite val))
    (dsptr : ∀ val, motive (.dsptr val))
    (setmode : ∀ val, motive (.setmode val))
    (callfn : ∀ val now, motive (.callfn val now))
    (writeIgnored : ∀ a val, motive (.writeIgnored a val))
    (jmpFast : ∀ a, motive (.jmpFast a))
    (ldaImm : ∀ a, motive (.ldaImm a))
    (amplitude : ∀ now, motive (.amplitude now))
    (pass : ∀ rom a, motive (.pass rom a))
    (callfnRun254 : ∀ now, motive (.callfnRun254 now))
    (callfnRun255 : ∀ now, motive (.callfnRun255 now))
    (callfnNop : ∀ val, motive (.callfnNop val))
    (setnote : ∀ v f, motive (.setnote v f))
    (resetwave : ∀ v, motive (.resetwave v))
    (getwaveptr : ∀ v, motive (.getwaveptr v))
    (setwavesize : ∀ v size, motive (.setwavesize v size))
    (reset : ∀ now, motive (.reset now))
    (cyclesreset : ∀ offset, motive (.cyclesreset offset))
    (setbanklock : ∀ b, motive (.setbanklock b))
    (patch : ∀ addr val, motive (.patch addr val))
    (getbank : motive .getbank)
    (armramread : ∀ x, motive (.armramread x))
    (armromread : ∀ x, motive (.armromread x))
    (armramwrite : ∀ x val, motive (.armramwrite x val)) : ∀ i, motive i
  | .bank0R => bankRead 0
  | .bank1R => bankRead 1
  | .bank2R => bankRead 2
  | .bank3R => bankRead 3
  | .bank4R => bankRead 4
  | .bank5R => bankRead 5
  | .bank6R => bankRead 6
  | .bank0W val => bankWrite 0 val
  | .bank1W val => bankWrite 1 val
  | .bank2W val => bankWrite 2 val
  | .bank3W val => bankWrite 3 val
  | .bank4W val => bankWrite 4 val
  | .bank5W val => bankWrite 5 val
  | .bank6W val => bankWrite 6 val
  | .ds0 => streamRead 0
  | .ds1 => streamRead 1
  | .ds2 => streamRead 2
  | .ds3 => streamRead 3
  | .ds4 => streamRead 4
  | .ds5 => streamRead 5
  | .ds6 => streamRead 6
  | .ds7 => streamRead 7
  | .ds8 => streamRead 8
  | .ds9 => streamRead 9
  | .ds10 => streamRead 10
  | .ds11 => streamRead 11
  | .ds12 => streamRead 12
  | .ds13 => streamRead 13
  | .ds14 => streamRead 14
  | .ds15 => streamRead 15
  | .ds16 => streamRead 16
  | .ds17 => streamRead 17
  | .ds18 => streamRead 18
  | .ds19 => streamRead 19
  | .ds20 => streamRead 20
  | .ds21 => streamRead 21
  | .ds22 => streamRead 22
  | .ds23 => streamRead 23
  | .ds24 => streamRead 24
  | .ds25 => streamRead 25
  | .ds26 => streamRead 26
  | .ds27 => streamRead 27
  | .ds28 => streamRead 28
  | .ds29 => streamRead 29
  | .ds30 => streamRead 30
  | .ds31 => streamRead 31
  | .commstream => streamRead 32
  | .jumpstream => streamRead 33
  | .jmpCont a => jmpCont a
  | .romread a => romread a
  | .dswrite val => dswrite val
  | .dsptr val => dsptr val
  | .setmode val => setmode val
  | .callfn val now => callfn val now
  | .writeIgnored a val => writeIgnored a val
  | .jmpFast a => jmpFast a
  | .ldaImm a => ldaImm a
  | .amplitude now => amplitude now
  | .pass rom a => pass rom a
  | .callfnRun254 now => callfnRun254 now
  | .callfnRun255 now => callfnRun255 now
  | .callfnNop val => callfnNop val
  | .setnote v f => setnote v f
  | .resetwave v => resetwave v
  | .getwaveptr v => getwaveptr v
  | .setwavesize v size => setwavesize v size
  | .reset now => reset now
  | .cyclesreset offset => cyclesreset offset
  | .setbanklock b => setbanklock b
  | .patch addr val => patch addr val
  | .getbank => getbank
  | .armramread x => armramread x
  | .armromread x => armromread x
  | .armramwrite x val => armramwrite x val

end Sys2Proof
end

section
/-! ### What no operation changes: the parameters, the ARM's own state and, but for PATCH, the image -/

namespace Sys2Proof.Machine

/-- The parameters, what the ARM keeps between runs and the image are as before (R7, R21, R43). -/
structure ConstantsSame (s t : State) : Prop where
  ramInit : t.ramInit = s.ramInit
  oscArith : t.oscArith = s.oscArith
  trapFatal : t.trapFatal = s.trapFatal
  armState : t.armState = s.armState
  image : t.image = s.image

theorem ConstantsSame.refl (s : State) : ConstantsSame s s := ⟨rfl, rfl, rfl, rfl, rfl⟩

/-- All that CALLFN can do: start a run, or nothing (R205, R220). -/
theorem execCallfn_next {val : Byte} {now : Cycles} {s t : State} (h : execCallfn val now s = .next t) :
    ((val = 254 ∨ val = 255) ∧ armRun now s = .next t) ∨
      (¬ (val = 254 ∨ val = 255) ∧ t = answer .nothing s) := by
  unfold execCallfn at h
  split_ifs at h with hval
  · exact .inl ⟨hval, h⟩
  · cases h; exact .inr ⟨hval, rfl⟩

/-- All that an ARM read of RAM can do: answer the byte, or end the run (R64, R225). -/
theorem execArmramread_next {x : Word32} {s t : State} (h : execArmramread x s = .next t) :
    (∃ k, armRamOffset? x = some k ∧ t = answer (.byte (readByte s.ram k)) s) ∨
      (armRamOffset? x = none ∧ t = armFault s) := by
  unfold execArmramread at h
  split at h
  · next k hk => cases h; exact .inl ⟨k, hk, rfl⟩
  · next hk => cases h; exact .inr ⟨hk, rfl⟩

/-- All that an ARM read of the image can do: answer the byte, or end the run (R64, R225). -/
theorem execArmromread_next {x : Word32} {s t : State} (h : execArmromread x s = .next t) :
    (∃ k, armRomOffset? x = some k ∧ t = answer (.byte (readByte s.image k)) s) ∨
      (armRomOffset? x = none ∧ t = armFault s) := by
  unfold execArmromread at h
  split at h
  · next k hk => cases h; exact .inl ⟨k, hk, rfl⟩
  · next hk => cases h; exact .inr ⟨hk, rfl⟩

/-- All that an ARM write can do: store one RAM byte, or end the run (R64, R225). -/
theorem execArmramwrite_next {x : Word32} {val : Byte} {s t : State} (h : execArmramwrite x val s = .next t) :
    (∃ k, armRamOffset? x = some k ∧ t = answer .nothing { s with ram := writeByte s.ram k val }) ∨
      (armRamOffset? x = none ∧ t = armFault s) := by
  unfold execArmramwrite at h
  split at h
  · next k hk => cases h; exact .inl ⟨k, hk, rfl⟩
  · next hk => cases h; exact .inr ⟨hk, rfl⟩

/-- All that PATCH can do: store one image byte from offset 0x40 up, or nothing (R251). -/
theorem execPatch_next {addr : Word16} {val : Byte} {s t : State} (h : execPatch addr val s = .next t) :
    (0x40 ≤ (windowOffset addr).toNat ∧
        t = answer (.flag true) { s with image := writeByte s.image (patchIndex s (windowOffset addr)) val }) ∨
      (¬ 0x40 ≤ (windowOffset addr).toNat ∧ t = answer (.flag false) s) := by
  unfold execPatch at h
  simp only at h
  split_ifs at h with ha
  · cases h; exact .inl ⟨ha, rfl⟩
  · cases h; exact .inr ⟨ha, rfl⟩

theorem answer_constantsSame (r : Result) {s t : State} (h : ConstantsSame s t) : ConstantsSame s (answer r t) :=
  ⟨h.ramInit, h.oscArith, h.trapFatal, h.armState, h.image⟩

theorem readStream_constantsSame (k : Fin 34) (s : State) : ConstantsSame s (capture (readStream k) s) :=
  ⟨rfl, rfl, rfl, rfl, rfl⟩

theorem bank_constantsSame (n : Fin 7) (s : State) : ConstantsSame s (bank n s) := by
  constructor <;> simp

theorem bankRead_constantsSame (n : Fin 7) (a : Offset) (s : State) : ConstantsSame s (bankRead n a s) := by
  constructor <;> simp [bankRead]

theorem audioSample_constantsSame (now : Cycles) (s : State) : ConstantsSame s (capture (audioSample now) s) := by
  constructor <;> simp [capture, audioSample]

theorem armFault_constantsSame (s : State) : ConstantsSame s (armFault s) := ⟨rfl, rfl, rfl, rfl, rfl⟩

theorem armRun_constantsSame {now : Cycles} {s t : State} (h : armRun now s = .next t) : ConstantsSame s t := by
  obtain ⟨-, -, rfl⟩ := armRun_next h
  exact ⟨rfl, rfl, rfl, rfl, rfl⟩

/-- A callback keeps what its effect on each voice keeps (R231). -/
theorem onVoice_constantsSame {v : Word32} {f : Fin 3 → State} {s t : State} (h : onVoice v f = .next t)
    (hf : ∀ k, ConstantsSame s (f k)) : ConstantsSame s t := by
  obtain ⟨k, -, rfl⟩ := onVoice_next h
  exact hf k

/-- Every operation but PATCH keeps the parameters, the ARM's own state and the image. -/
theorem exec_constantsSame {i : Instr} {s t : State} (h : exec i s = .next t)
    (hpatch : ∀ addr val, i ≠ .patch addr val) : ConstantsSame s t := by
  induction i using Instr.rowCases with
  | streamRead k =>
    rw [exec_streamRead] at h
    cases h; exact readStream_constantsSame k s
  | bankRead n =>
    rw [exec_bankReadRow] at h
    cases h; exact bankRead_constantsSame n _ s
  | bankWrite n val =>
    rw [exec_bankWriteRow] at h
    cases h; exact answer_constantsSame _ (bank_constantsSame n s)
  | jmpCont a => cases h; exact ⟨rfl, rfl, rfl, rfl, rfl⟩
  | romread a =>
    cases h
    refine answer_constantsSame _ ?_
    split
    · exact .refl s
    · exact ⟨rfl, rfl, rfl, rfl, rfl⟩
  | dswrite val => cases h; exact ⟨rfl, rfl, rfl, rfl, rfl⟩
  | dsptr val => cases h; exact ⟨rfl, rfl, rfl, rfl, rfl⟩
  | setmode val => cases h; exact ⟨rfl, rfl, rfl, rfl, rfl⟩
  | callfn val now =>
    obtain ⟨-, hrun⟩ | ⟨-, rfl⟩ := execCallfn_next h
    · exact armRun_constantsSame hrun
    · exact answer_constantsSame _ (.refl s)
  | writeIgnored a val => cases h; exact answer_constantsSame _ (.refl s)
  | jmpFast a => cases h; exact ⟨rfl, rfl, rfl, rfl, rfl⟩
  | ldaImm a => cases h; constructor <;> simp
  | amplitude now => cases h; exact audioSample_constantsSame now s
  | pass rom a => cases h; constructor <;> simp
  | callfnRun254 now => exact armRun_constantsSame h
  | callfnRun255 now => exact armRun_constantsSame h
  | callfnNop val => cases h; exact answer_constantsSame _ (.refl s)
  | setnote v f => exact onVoice_constantsSame h fun _ => ⟨rfl, rfl, rfl, rfl, rfl⟩
  | resetwave v => exact onVoice_constantsSame h fun _ => ⟨rfl, rfl, rfl, rfl, rfl⟩
  | getwaveptr v => exact onVoice_constantsSame h fun _ => ⟨rfl, rfl, rfl, rfl, rfl⟩
  | setwavesize v size => exact onVoice_constantsSame h fun _ => ⟨rfl, rfl, rfl, rfl, rfl⟩
  | reset now => cases h; exact ⟨rfl, rfl, rfl, rfl, rfl⟩
  | cyclesreset offset => cases h; exact ⟨rfl, rfl, rfl, rfl, rfl⟩
  | setbanklock b => cases h; exact ⟨rfl, rfl, rfl, rfl, rfl⟩
  | patch addr val => exact absurd rfl (hpatch addr val)
  | getbank => cases h; exact answer_constantsSame _ (.refl s)
  | armramread x =>
    obtain ⟨k, -, rfl⟩ | ⟨-, rfl⟩ := execArmramread_next h
    · exact answer_constantsSame _ (.refl s)
    · exact armFault_constantsSame s
  | armromread x =>
    obtain ⟨k, -, rfl⟩ | ⟨-, rfl⟩ := execArmromread_next h
    · exact answer_constantsSame _ (.refl s)
    · exact armFault_constantsSame s
  | armramwrite x val =>
    obtain ⟨k, -, rfl⟩ | ⟨-, rfl⟩ := execArmramwrite_next h
    · exact ⟨rfl, rfl, rfl, rfl, rfl⟩
    · exact armFault_constantsSame s

/-- Settles O54: PATCH stores in the image only, and every other row keeps all five fields. -/
theorem imageChangesByPatchOnly : Obligations.ImageChangesByPatchOnly := by
  intro i s t h
  by_cases hpatch : ∃ addr val, i = .patch addr val
  · obtain ⟨addr, val, rfl⟩ := hpatch
    obtain ⟨-, rfl⟩ | ⟨-, rfl⟩ := execPatch_next h
    · exact ⟨rfl, rfl, rfl, rfl, fun _ => ⟨addr, val, rfl⟩⟩
    · exact ⟨rfl, rfl, rfl, rfl, fun _ => ⟨addr, val, rfl⟩⟩
  · have hsame := exec_constantsSame h fun addr val e => hpatch ⟨addr, val, e⟩
    exact ⟨hsame.ramInit, hsame.oscArith, hsame.trapFatal, hsame.armState, fun hne => absurd hsame.image hne⟩

end Sys2Proof.Machine
end

section
/-! PROOFS, family 10_state: the condition that selects a row, what keeps the invariant of R44, and which rows write
each part of the state. -/

/-! ### The condition that selects a row, as far as the invariant needs it (log 28) -/

namespace Sys2Proof.Machine

/-- The state condition under which a row is selected. Only the one of JMP.CONT is needed: its effect keeps the
fast-jump latch in its range at the latch's own offset and with a count above 0 only (R173). -/
def Selected (s : State) : Instr → Prop
  | .jmpCont a => continuationAt s a = true
  | _ => True

theorem bankReadRow_selected (s : State) (n : Fin 7) : Selected s (bankReadRow n) := by fin_cases n <;> trivial

theorem bankWriteRow_selected (s : State) (n : Fin 7) (val : Byte) : Selected s (bankWriteRow n val) := by
  fin_cases n <;> trivial

theorem streamRead_selected (s : State) (k : Fin 34) : Selected s (streamRead k) := by fin_cases k <;> trivial

theorem decodeHostRead_selected (s : State) (a : Offset) : Selected s (decodeHostRead a) := by
  unfold decodeHostRead
  split
  · exact bankReadRow_selected s _
  · trivial

theorem decodeHostWrite_selected (s : State) (a : Offset) (val : Byte) (now : Cycles) :
    Selected s (decodeHostWrite a val now) := by
  unfold decodeHostWrite
  split_ifs
  · trivial
  · trivial
  · trivial
  · trivial
  · split
    · exact bankWriteRow_selected s _ val
    · trivial

theorem decodeOperand_selected (s : State) (rom : Byte) (a : Offset) (now : Cycles) :
    Selected s (decodeOperand rom a now) := by
  unfold decodeOperand
  split_ifs
  · exact streamRead_selected s _
  · trivial
  · trivial

theorem decodeCallfnArg_selected (s : State) (val : Byte) (now : Cycles) : Selected s (decodeCallfnArg val now) := by
  unfold decodeCallfnArg
  split_ifs <;> trivial

/-- A Peek decodes to JMP.CONT only where the fast-jump latch names its offset (R172). -/
theorem peekRow_selected (s : State) (a : Offset) (now : Cycles) : Selected s (peekRow s a now) := by
  unfold peekRow
  split_ifs with hlock hcont
  · trivial
  · exact hcont
  · trivial
  · exact decodeOperand_selected s _ a now
  · trivial
  · exact decodeHostRead_selected s a

theorem pokeRow_selected (s : State) (a : Offset) (val : Byte) (now : Cycles) : Selected s (pokeRow a val now) := by
  unfold pokeRow
  split_ifs
  · exact decodeCallfnArg_selected s val now
  · exact decodeHostWrite_selected s a val now

theorem hostRow_selected (s : State) (r : HostRequest) : Selected s (hostRow s r) := by
  cases r with
  | peek addr now => exact peekRow_selected s _ now
  | poke addr val now => exact pokeRow_selected s _ val now
  | reset now => trivial
  | cyclesReset offset => trivial
  | setBankLock b => trivial
  | patch addr val => trivial
  | getBank => trivial

theorem decodeCallback_selected (s : State) {code a1 a2 : Word32} {i : Instr} (h : decodeCallback code a1 a2 = .ok i) :
    Selected s i := by
  unfold decodeCallback at h
  split_ifs at h
  all_goals
    cases h
    trivial

theorem decodeBool_selected (s : State) {b : Byte} {i : Instr} (h : decodeBool b = .ok i) : Selected s i := by
  unfold decodeBool at h
  split_ifs at h
  all_goals
    cases h
    trivial

theorem decodeEnvOp_selected (s : State) {serial : Byte} {bs : List Byte} {i : Instr}
    (h : decodeEnvOp serial bs = .ok i) : Selected s i := by
  unfold decodeEnvOp at h
  split_ifs at h
  · cases h; trivial
  · cases h; trivial
  · exact decodeBool_selected s h
  all_goals
    cases h
    trivial

/-- Neither port of the ARM's actions has the row JMP.CONT (R98, R105). -/
theorem decode_armPort_selected (s : State) {p : Packet} {i : Instr}
    (hport : p.port = .armCallback ∨ p.port = .envOp) (h : decode p = .ok i) : Selected s i := by
  unfold decode at h
  split at h
  · cases h
  · obtain hport | hport := hport
    · rw [hport] at h; exact decodeCallback_selected s h
    · rw [hport] at h; exact decodeEnvOp_selected s h

end Sys2Proof.Machine
end

section
/-! ### The invariant of R44: every operation of the device keeps it -/

namespace Sys2Proof.Machine

variable {s : State}

/-! #### The shared operations -/

theorem answer_inv (r : Result) (h : Inv s) : Inv (answer r s) := { h with }

theorem takeHost_inv (rest : List HostRequest) (h : Inv s) : Inv (takeHost rest s) := { h with }

theorem takeArm_inv (rest : List ArmRequest) (h : Inv s) : Inv (takeArm rest s) := { h with }

theorem armEnd_inv (faulted : Bool) (h : Inv s) : Inv (armEnd faulted s) := { h with }

theorem clearJump_inv (h : Inv s) : Inv (clearJump s) := { h with jmp_le := Nat.zero_le _ }

theorem clearLda_inv (h : Inv s) : Inv (clearLda s) := { h with lda_le := Nat.zero_le _ }

theorem armLda_inv (a : Offset) (h : Inv s) : Inv (armLda a s) := { h with lda_le := offset_succ_le a }

theorem bank_inv (n : Fin 7) (h : Inv s) : Inv (bank n s) := by
  rw [bank_eq]
  exact { h with }

theorem hotspotStep_inv (a : Offset) (h : Inv s) : Inv (hotspotStep a s) := by
  rw [hotspotStep_eq]
  exact { h with }

theorem opcodeStep_inv (a : Offset) (rom : Byte) (h : Inv s) : Inv (opcodeStep a rom s) := by
  unfold opcodeStep
  split
  · exact armLda_inv a h
  · exact h

/-- The two steps that every plain Peek passes (R175, R179). -/
theorem clearLatches_inv (h : Inv s) : Inv (clearLda (clearJump s)) := clearLda_inv (clearJump_inv h)

theorem setPtr_inv (i : Fin 34) (v : Word32) (h : Inv s) : Inv (setPtr i v s) :=
  { h with ram_wf := wf_writeLE32 v h.ram_wf (by have := ptrOffset_lt i; unfold Config.ramSize; omega) }

theorem readStream_inv (i : Fin 34) (h : Inv s) : Inv (readStream i s) := answer_inv _ (setPtr_inv i _ h)

theorem storeRam_inv {k : Nat} (v : Byte) (hk : k < Config.ramSize) (h : Inv s) :
    Inv { s with ram := writeByte s.ram k v } :=
  { h with ram_wf := wf_writeByte h.ram_wf hk }

theorem armRun_inv {now : Cycles} {t : State} (h : Inv s) (hrun : armRun now s = .next t) : Inv t := by
  obtain ⟨-, -, rfl⟩ := armRun_next hrun
  exact { h with }

/-- A callback keeps the invariant if its effect on each voice does (R231). -/
theorem onVoice_inv {v : Word32} {f : Fin 3 → State} {t : State} (h : onVoice v f = .next t) (hf : ∀ k, Inv (f k)) :
    Inv t := by
  obtain ⟨k, -, rfl⟩ := onVoice_next h
  exact hf k

/-! #### The effects of single rows -/

theorem advanceCounters_inv (whole : Int) (h : Inv s) : Inv (advanceCounters whole s) := by
  unfold advanceCounters
  split
  · exact h
  · exact { h with }

theorem updateAudio_inv (now : Cycles) (h : Inv s) : Inv (updateAudio now s) := by
  unfold updateAudio
  split
  · exact advanceCounters_inv _ { h with rem_lt := ticksRational_lt _ _ }
  · exact advanceCounters_inv _ { h with }

theorem audioSample_inv (now : Cycles) (h : Inv s) : Inv (audioSample now s) := answer_inv _ (updateAudio_inv now h)

theorem bankRead_inv (n : Fin 7) (a : Offset) (h : Inv s) : Inv (bankRead n a s) :=
  answer_inv _ (opcodeStep_inv a _ (bank_inv n (clearLatches_inv h)))

/-- Where step 2's condition holds the count is above 0 and the latch holds an offset (R173). -/
theorem continuationAt_iff {a : Offset} :
    continuationAt s a = true ↔ s.fastJumpActive ≠ 0 ∧ a.setWidth 16 = s.jmpOperandAddr := by
  simp only [continuationAt, Bool.and_eq_true, decide_eq_true_eq]

/-- The continuation keeps the fast-jump latch in its range: the count is above 0 before it falls, and the latch held
a window offset before it rises (R34, R173). -/
theorem continueJump_inv {a : Offset} (hsel : continuationAt s a = true) (h : Inv s) : Inv (continueJump s) := by
  obtain ⟨hcount, haddr⟩ := continuationAt_iff.1 hsel
  have hcount' : (s.fastJumpActive - 1).toNat ≤ 2 := by have := h.count_le; bv_omega
  have haddr' : (s.jmpOperandAddr + 1).toNat ≤ 0x1000 := haddr ▸ offset_succ_le a
  rw [continueJump_eq]
  exact answer_inv _ (setPtr_inv 33 _ { h with count_le := hcount', jmp_le := haddr' })

theorem triggerJump_inv (a : Offset) (h : Inv s) : Inv (triggerJump a s) :=
  { h with count_le := le_refl 2, jmp_le := offset_succ_le a }

/-- A pointer's index lies in display RAM (R25, R202). -/
theorem displayOffset_streamIndex_lt (p : Word32) : displayOffset (streamIndex p) < Config.ramSize := by
  have := streamIndex_lt p
  unfold displayOffset Config.driverSize Config.ramSize
  omega

/-- The image index of every bank and offset lies in the image (R71, R251). -/
theorem patchIndex_lt (s : State) (a : Offset) : patchIndex s a < Config.imageSize := by
  have hbank := s.currentBank.isLt
  have hoff := a.isLt
  unfold patchIndex progIndex Config.programBase Config.bankSize Config.imageSize
  omega

theorem resetDevice_inv (now : Cycles) (h : Inv s) : Inv (resetDevice now s) where
  lda_le := Nat.zero_le _
  jmp_le := Nat.zero_le _
  count_le := Nat.zero_le _
  rem_lt := show 0 < 143183 by decide
  image_wf := h.image_wf
  ram_wf := wf_resetRam h.image_wf h.ramInit_wf
  ramInit_wf := h.ramInit_wf

/-! #### Every row, and every step -/

/-- Every row keeps the invariant where it is selected. -/
theorem exec_inv {i : Instr} {t : State} (hinv : Inv s) (hsel : Selected s i) (h : exec i s = .next t) : Inv t := by
  induction i using Instr.rowCases with
  | streamRead k =>
    rw [exec_streamRead] at h
    cases h; exact readStream_inv k (clearLatches_inv hinv)
  | bankRead n =>
    rw [exec_bankReadRow] at h
    cases h; exact bankRead_inv n _ hinv
  | bankWrite n val =>
    rw [exec_bankWriteRow] at h
    cases h; exact answer_inv _ (bank_inv n hinv)
  | jmpCont a => cases h; exact continueJump_inv hsel hinv
  | romread a =>
    cases h
    refine answer_inv _ ?_
    split
    · exact hinv
    · exact clearLatches_inv hinv
  | dswrite val =>
    cases h
    exact answer_inv _ (setPtr_inv _ _ (storeRam_inv val (displayOffset_streamIndex_lt _) hinv))
  | dsptr val => cases h; exact answer_inv _ (setPtr_inv _ _ hinv)
  | setmode val => cases h; exact { hinv with }
  | callfn val now =>
    obtain ⟨-, hrun⟩ | ⟨-, rfl⟩ := execCallfn_next h
    · exact armRun_inv hinv hrun
    · exact answer_inv _ hinv
  | writeIgnored a val => cases h; exact answer_inv _ hinv
  | jmpFast a => cases h; exact triggerJump_inv a hinv
  | ldaImm a => cases h; exact answer_inv _ (armLda_inv a (hotspotStep_inv a (clearLatches_inv hinv)))
  | amplitude now => cases h; exact audioSample_inv now (clearLatches_inv hinv)
  | pass rom a => cases h; exact answer_inv _ (opcodeStep_inv a rom (hotspotStep_inv a (clearLatches_inv hinv)))
  | callfnRun254 now => exact armRun_inv hinv h
  | callfnRun255 now => exact armRun_inv hinv h
  | callfnNop val => cases h; exact answer_inv _ hinv
  | setnote v f => exact onVoice_inv h fun _ => { hinv with }
  | resetwave v => exact onVoice_inv h fun _ => { hinv with }
  | getwaveptr v => exact onVoice_inv h fun _ => answer_inv _ hinv
  | setwavesize v size => exact onVoice_inv h fun _ => { hinv with }
  | reset now => cases h; exact answer_inv _ (resetDevice_inv now hinv)
  | cyclesreset offset => cases h; exact { hinv with }
  | setbanklock b => cases h; exact { hinv with }
  | patch addr val =>
    obtain ⟨-, rfl⟩ | ⟨-, rfl⟩ := execPatch_next h
    · exact { hinv with image_wf := wf_writeByte hinv.image_wf (patchIndex_lt s _) }
    · exact answer_inv _ hinv
  | getbank => cases h; exact answer_inv _ hinv
  | armramread x =>
    obtain ⟨k, -, rfl⟩ | ⟨-, rfl⟩ := execArmramread_next h
    · exact answer_inv _ hinv
    · exact armEnd_inv true hinv
  | armromread x =>
    obtain ⟨k, -, rfl⟩ | ⟨-, rfl⟩ := execArmromread_next h
    · exact answer_inv _ hinv
    · exact armEnd_inv true hinv
  | armramwrite x val =>
    obtain ⟨k, hk, rfl⟩ | ⟨-, rfl⟩ := execArmramwrite_next h
    · exact answer_inv _ (storeRam_inv val (armRamOffset?_some hk).1 hinv)
    · exact armEnd_inv true hinv

end Sys2Proof.Machine
end

section
/-! ### The invariant holds at reset and after every step -/

namespace Sys2Proof.Machine

/-- Settles O2, over what a step can do: what it takes off a queue is no part of the invariant, and a row is executed
only where its condition holds. -/
theorem everyStepKeepsTheInvariant : Obligations.EveryStepKeepsTheInvariant := by
  intro s t hinv hstep
  obtain ⟨-, -, rfl⟩ | ⟨r, rest, i, -, hdec, hexec⟩ | ⟨a, rest, -, rfl⟩ | ⟨f, rest, -, rfl⟩ |
    ⟨r, rest, p, i, -, hport, hdec, hexec⟩ := step_next hstep
  · exact hinv
  · have hi : i = hostRow (takeHost rest s) r := Except.ok.inj (hdec.symm.trans (decode_hostPacket _ r))
    subst hi
    exact exec_inv (takeHost_inv rest hinv) (hostRow_selected _ r) hexec
  · exact { hinv with }
  · exact armEnd_inv f (takeArm_inv rest hinv)
  · exact exec_inv (takeArm_inv rest hinv) (decode_armPort_selected _ hport hdec) hexec

theorem reset_inv : Inv State.reset where
  lda_le := by decide
  jmp_le := by decide
  count_le := by decide
  rem_lt := by decide
  image_wf := rfl
  ram_wf := rfl
  ramInit_wf := rfl

/-- Settles O58: `Reset(0)` assigns the values that `State.reset` already has. -/
theorem invariantHoldsAfterReset : Obligations.InvariantHoldsAfterReset := ⟨reset_inv, rfl⟩

end Sys2Proof.Machine
end

section
/-! ### Which rows write mode, lock, music pack, audio clock and tables (R28, R30, R32, R36 to R38, R140) -/

namespace Sys2Proof.Machine

/-- All that has writers of its own is as before: mode, lock, music pack, audio clock, increments and waveform words. -/
structure OwnedSame (s t : State) : Prop where
  mode : t.mode = s.mode
  bankLocked : t.bankLocked = s.bankLocked
  music : MusicSame s t
  clock : AudioClockSame s t
  tables : TablesSame s t

theorem TablesSame.of_ram {s t : State} (h : t.ram = s.ram) : TablesSame s t := fun k _ _ => congrArg (readByte · k) h

theorem OwnedSame.refl (s : State) : OwnedSame s s := ⟨rfl, rfl, ⟨rfl, rfl, rfl⟩, ⟨rfl, rfl, rfl⟩, .of_ram rfl⟩

theorem answer_ownedSame (r : Result) {s t : State} (h : OwnedSame s t) : OwnedSame s (answer r t) := { h with }

theorem clearLatches_ownedSame (s : State) : OwnedSame s (clearLda (clearJump s)) := { OwnedSame.refl s with }

theorem armFault_ownedSame (s : State) : OwnedSame s (armFault s) := { OwnedSame.refl s with }

theorem bank_ownedSame (n : Fin 7) {s t : State} (h : OwnedSame s t) : OwnedSame s (bank n t) := by
  rw [bank_eq]
  exact { h with }

theorem hotspotStep_ownedSame (a : Offset) {s t : State} (h : OwnedSame s t) : OwnedSame s (hotspotStep a t) := by
  rw [hotspotStep_eq]
  exact { h with }

theorem armLda_ownedSame (a : Offset) {s t : State} (h : OwnedSame s t) : OwnedSame s (armLda a t) := { h with }

theorem opcodeStep_ownedSame (a : Offset) (rom : Byte) {s t : State} (h : OwnedSame s t) :
    OwnedSame s (opcodeStep a rom t) := by
  rw [opcodeStep_eq]
  exact { h with }

/-- The pointer table lies below the increments and the waveform words (R24, R28). -/
theorem setPtr_ownedSame (i : Fin 34) (v : Word32) {s t : State} (h : OwnedSame s t) : OwnedSame s (setPtr i v t) :=
  { h with tables := fun k hlo hhi => (setPtr_tablesSame i v t k hlo hhi).trans (h.tables k hlo hhi) }

/-- Display RAM lies above the increments and the waveform words (R22, R28). -/
theorem storeDisplay_ownedSame (k : Nat) (v : Byte) (s : State) :
    OwnedSame s { s with ram := writeByte s.ram (displayOffset k) v } :=
  { OwnedSame.refl s with
    tables := fun j _ hhi => readByte_writeByte_other s.ram v (by unfold displayOffset Config.driverSize; omega) }

theorem readStream_ownedSame (i : Fin 34) {s t : State} (h : OwnedSame s t) : OwnedSame s (readStream i t) :=
  answer_ownedSame _ (setPtr_ownedSame i _ h)

theorem continueJump_ownedSame (s : State) : OwnedSame s (continueJump s) := by
  rw [continueJump_eq]
  exact answer_ownedSame _ (setPtr_ownedSame 33 _ { OwnedSame.refl s with })

theorem armRun_ownedSame {now : Cycles} {s t : State} (h : armRun now s = .next t) : OwnedSame s t := by
  obtain ⟨-, -, rfl⟩ := armRun_next h
  exact { OwnedSame.refl s with }

/-! #### Each part and its writers -/

/-- What a row may do to each part that has writers of its own: leave it, or be one of the writers. -/
structure WrittenByOwner (i : Instr) (s t : State) : Prop where
  mode : t.mode = s.mode ∨ (∃ val, i = .setmode val) ∨ ∃ now, i = .reset now
  bankLocked : t.bankLocked = s.bankLocked ∨ ∃ b, i = .setbanklock b
  counters : t.musicCounters = s.musicCounters ∨
    (∃ now, i = .amplitude now) ∨ (∃ v, i = .resetwave v) ∨ ∃ now, i = .reset now
  frequencies : t.musicFrequencies = s.musicFrequencies ∨ (∃ v f, i = .setnote v f) ∨ ∃ now, i = .reset now
  sizes : t.musicWaveformSize = s.musicWaveformSize ∨ (∃ v size, i = .setwavesize v size) ∨ ∃ now, i = .reset now
  clock : AudioClockSame s t ∨
    (∃ now, i = .amplitude now) ∨ (∃ now, i = .reset now) ∨ ∃ off, i = .cyclesreset off
  tables : TablesSame s t ∨ (∃ now, i = .reset now) ∨ ∃ x val, i = .armramwrite x val

/-- A row that leaves every part is within the rule, whatever row it is. -/
theorem OwnedSame.writtenByOwner {s t : State} (i : Instr) (h : OwnedSame s t) : WrittenByOwner i s t :=
  have ⟨hcounters, hfrequencies, hsizes⟩ := h.music
  ⟨.inl h.mode, .inl h.bankLocked, .inl hcounters, .inl hfrequencies, .inl hsizes, .inl h.clock, .inl h.tables⟩

/-- The audio update writes the counters and the clock only (R140, R144). -/
theorem amplitude_writtenByOwner (now : Cycles) (s : State) :
    WrittenByOwner (.amplitude now) s (capture (audioSample now) s) where
  mode := .inl (by simp [capture, audioSample])
  bankLocked := .inl (by simp [capture, audioSample])
  counters := .inr (.inl ⟨now, rfl⟩)
  frequencies := .inl (by simp [capture, audioSample])
  sizes := .inl (by simp [capture, audioSample])
  clock := .inr (.inl ⟨now, rfl⟩)
  tables := .inl (.of_ram (by simp [capture, audioSample]))

/-- RESET writes every part but the lock (R271, D7). -/
theorem reset_writtenByOwner (now : Cycles) (s : State) :
    WrittenByOwner (.reset now) s (answer .nothing (resetDevice now s)) where
  mode := .inr (.inr ⟨now, rfl⟩)
  bankLocked := .inl rfl
  counters := .inr (.inr (.inr ⟨now, rfl⟩))
  frequencies := .inr (.inr ⟨now, rfl⟩)
  sizes := .inr (.inr ⟨now, rfl⟩)
  clock := .inr (.inr (.inl ⟨now, rfl⟩))
  tables := .inr (.inl ⟨now, rfl⟩)

/-- Every row leaves each part that is not its own: one case analysis for O55, O56 and O57. -/
theorem exec_writtenByOwner {i : Instr} {s t : State} (h : exec i s = .next t) : WrittenByOwner i s t := by
  have same (i : Instr) : WrittenByOwner i s s := (OwnedSame.refl s).writtenByOwner i
  have cleared : OwnedSame s (clearLda (clearJump s)) := clearLatches_ownedSame s
  induction i using Instr.rowCases with
  | streamRead k =>
    rw [exec_streamRead] at h
    cases h; exact (readStream_ownedSame k cleared).writtenByOwner _
  | bankRead n =>
    rw [exec_bankReadRow] at h
    cases h; exact (answer_ownedSame _ (opcodeStep_ownedSame _ _ (bank_ownedSame n cleared))).writtenByOwner _
  | bankWrite n val =>
    rw [exec_bankWriteRow] at h
    cases h; exact (answer_ownedSame _ (bank_ownedSame n (.refl s))).writtenByOwner _
  | jmpCont a => cases h; exact (continueJump_ownedSame s).writtenByOwner _
  | romread a =>
    cases h
    refine (answer_ownedSame _ ?_).writtenByOwner _
    split
    · exact .refl s
    · exact cleared
  | dswrite val =>
    cases h
    exact (answer_ownedSame _ (setPtr_ownedSame _ _ (storeDisplay_ownedSame _ val s))).writtenByOwner _
  | dsptr val => cases h; exact (answer_ownedSame _ (setPtr_ownedSame _ _ (.refl s))).writtenByOwner _
  | setmode val => cases h; exact { same _ with mode := .inr (.inl ⟨val, rfl⟩) }
  | callfn val now =>
    obtain ⟨-, hrun⟩ | ⟨-, rfl⟩ := execCallfn_next h
    · exact (armRun_ownedSame hrun).writtenByOwner _
    · exact { same _ with }
  | writeIgnored a val => cases h; exact { same _ with }
  | jmpFast a => cases h; exact { same _ with }
  | ldaImm a =>
    cases h
    exact (answer_ownedSame _ (armLda_ownedSame a (hotspotStep_ownedSame a cleared))).writtenByOwner _
  | amplitude now => cases h; exact amplitude_writtenByOwner now s
  | pass rom a =>
    cases h
    exact (answer_ownedSame _ (opcodeStep_ownedSame a rom (hotspotStep_ownedSame a cleared))).writtenByOwner _
  | callfnRun254 now => exact (armRun_ownedSame h).writtenByOwner _
  | callfnRun255 now => exact (armRun_ownedSame h).writtenByOwner _
  | callfnNop val => cases h; exact { same _ with }
  | setnote v f =>
    obtain ⟨k, -, rfl⟩ := onVoice_next h
    exact { same _ with frequencies := .inr (.inl ⟨v, f, rfl⟩) }
  | resetwave v =>
    obtain ⟨k, -, rfl⟩ := onVoice_next h
    exact { same _ with counters := .inr (.inr (.inl ⟨v, rfl⟩)) }
  | getwaveptr v =>
    obtain ⟨k, -, rfl⟩ := onVoice_next h
    exact { same _ with }
  | setwavesize v size =>
    obtain ⟨k, -, rfl⟩ := onVoice_next h
    exact { same _ with sizes := .inr (.inl ⟨v, size, rfl⟩) }
  | reset now => cases h; exact reset_writtenByOwner now s
  | cyclesreset offset => cases h; exact { same _ with clock := .inr (.inr (.inr ⟨offset, rfl⟩)) }
  | setbanklock b => cases h; exact { same _ with bankLocked := .inr ⟨b, rfl⟩ }
  | patch addr val =>
    obtain ⟨-, rfl⟩ | ⟨-, rfl⟩ := execPatch_next h
    · exact { same _ with }
    · exact { same _ with }
  | getbank => cases h; exact { same _ with }
  | armramread x =>
    obtain ⟨k, -, rfl⟩ | ⟨-, rfl⟩ := execArmramread_next h
    · exact { same _ with }
    · exact (armFault_ownedSame s).writtenByOwner _
  | armromread x =>
    obtain ⟨k, -, rfl⟩ | ⟨-, rfl⟩ := execArmromread_next h
    · exact { same _ with }
    · exact (armFault_ownedSame s).writtenByOwner _
  | armramwrite x val =>
    obtain ⟨k, -, rfl⟩ | ⟨-, rfl⟩ := execArmramwrite_next h
    · exact { same _ with tables := .inr (.inr ⟨x, val, rfl⟩) }
    · exact (armFault_ownedSame s).writtenByOwner _

/-- Settles O55: a mode or lock that is not as before was written by an owner. -/
theorem modeChangesBySetmodeAndResetOnly : Obligations.ModeChangesBySetmodeAndResetOnly := by
  intro i s t h
  have hown := exec_writtenByOwner h
  exact ⟨hown.mode.resolve_left, hown.bankLocked.resolve_left⟩

/-- Settles O56: so was a music register or an audio clock. -/
theorem musicRegistersHaveTheirOwnWriters : Obligations.MusicRegistersHaveTheirOwnWriters := by
  intro i s t h
  have hown := exec_writtenByOwner h
  exact ⟨hown.counters.resolve_left, hown.frequencies.resolve_left, hown.sizes.resolve_left,
    hown.clock.resolve_left⟩

/-- Settles O57: the two owners of the increments and the waveform words are excluded. -/
theorem incrementsAndWaveformsChangeByArmAndResetOnly :
    Obligations.IncrementsAndWaveformsChangeByArmAndResetOnly := by
  intro i s t h hreset hwrite
  obtain htables | ⟨now, rfl⟩ | ⟨x, val, rfl⟩ := (exec_writtenByOwner h).tables
  · exact htables
  · exact absurd rfl (hreset now)
  · exact absurd rfl (hwrite x val)

end Sys2Proof.Machine
end

section
/-! PROOFS, family 20_memory: an ARM access outside its region (R64; the reading of D18 in log 13). -/

namespace Sys2Proof.Machine

/-! ### The addresses outside the two regions -/

theorem armRamOffset?_eq_none_iff {x : Word32} :
    armRamOffset? x = none ↔ x.toNat < 0x40000000 ∨ 0x40002000 ≤ x.toNat := by
  rw [armRamOffset?, ite_eq_right_iff]
  simp only [reduceCtorEq, imp_false, not_and_or, not_le, not_lt]
  rfl

theorem armRomOffset?_eq_none_iff {x : Word32} : armRomOffset? x = none ↔ 0x8000 ≤ x.toNat := by
  rw [armRomOffset?, ite_eq_right_iff]
  simp only [reduceCtorEq, imp_false, not_lt]

/-! ### The fault that ends the run -/

/-- A fault goes to IDLE, keeps what the run wrote, and sets the ghost flag whatever it was before (R234, R242). -/
theorem armFault_eq (s : State) :
    armFault s = { s with sequencer := .idle, armFaulted := true, result := .nothing } := by
  simp [armFault, armEnd, answer]

theorem exec_armramread_of_none {x : Word32} (s : State) (h : armRamOffset? x = none) :
    exec (.armramread x) s = .next (armFault s) := by
  change execArmramread x s = _
  rw [execArmramread, h]

theorem exec_armramwrite_of_none {x : Word32} (val : Byte) (s : State) (h : armRamOffset? x = none) :
    exec (.armramwrite x val) s = .next (armFault s) := by
  change execArmramwrite x val s = _
  rw [execArmramwrite, h]

theorem exec_armromread_of_none {x : Word32} (s : State) (h : armRomOffset? x = none) :
    exec (.armromread x) s = .next (armFault s) := by
  change execArmromread x s = _
  rw [execArmromread, h]

/-- Settles O37: outside its region an address has no offset, and each of the three accesses is then the fault. -/
theorem armAccessOutsideItsRegionsEndsTheRun : Obligations.ArmAccessOutsideItsRegionsEndsTheRun := by
  refine ⟨fun x val s hout i hi => ?_, fun x s hout => ?_⟩
  · have hnone : armRamOffset? x = none := armRamOffset?_eq_none_iff.mpr hout
    rw [← armFault_eq]
    obtain rfl | rfl : i = .armramread x ∨ i = .armramwrite x val := by simpa using hi
    · exact exec_armramread_of_none s hnone
    · exact exec_armramwrite_of_none val s hnone
  · rw [← armFault_eq]
    exact exec_armromread_of_none s (armRomOffset?_eq_none_iff.mpr hout)

end Sys2Proof.Machine
end

section
/-! PROOFS, family 30_encoding: the decoder undoes the encoder, CALLFN's rows, words of the opcode table. -/

namespace Sys2Proof

/-! ### The decoders of the ports, an equation per kind of row -/

theorem decodeHostRead_of_some {a : Offset} {n : Fin 7} (h : hotspotBank? a = some n) :
    decodeHostRead a = bankReadRow n := by
  rw [decodeHostRead, h]

theorem decodeHostRead_of_none {a : Offset} (h : hotspotBank? a = none) : decodeHostRead a = .romread a := by
  rw [decodeHostRead, h]

theorem hotspotBank?_eq_none_of_isHotspot_eq_false {a : Offset} (h : isHotspot a = false) :
    hotspotBank? a = none := by
  rwa [← Option.isNone_iff_eq_none, ← Option.not_isSome, hotspotBank?_isSome, Bool.not_eq_true']

/-- No offset outside the four write ports reaches their rows (R92). -/
theorem decodeHostWrite_of_not_port {a : Offset} (val : Byte) (now : Cycles)
    (h : ¬ (0xFF0 ≤ a.toNat ∧ a.toNat ≤ 0xFF3)) :
    decodeHostWrite a val now = (hotspotBank? a).elim (.writeIgnored a val) (bankWriteRow · val) := by
  have hne (b : Offset) (hb : 0xFF0 ≤ b.toNat ∧ b.toNat ≤ 0xFF3) : a ≠ b := by
    rintro rfl
    exact h hb
  rw [decodeHostWrite, if_neg (hne 0xFF0 (by decide)), if_neg (hne 0xFF1 (by decide)),
    if_neg (hne 0xFF2 (by decide)), if_neg (hne 0xFF3 (by decide))]
  cases hotspotBank? a <;> rfl

theorem decodeHostWrite_of_some {a : Offset} {n : Fin 7} (val : Byte) (now : Cycles) (h : hotspotBank? a = some n) :
    decodeHostWrite a val now = bankWriteRow n val := by
  have ha := hotspotBank?_some h
  rw [decodeHostWrite_of_not_port val now (by omega), h, Option.elim_some]

theorem decodeHostWrite_of_not_writePort {a : Offset} (val : Byte) (now : Cycles) (h : isWritePort a = false) :
    decodeHostWrite a val now = .writeIgnored a val := by
  obtain ⟨hport, hhot⟩ := Bool.or_eq_false_iff.mp h
  rw [decodeHostWrite_of_not_port val now (by simpa using hport), hotspotBank?_eq_none_of_isHotspot_eq_false hhot,
    Option.elim_none]

theorem decodeOperand_stream (k : Fin 34) (a : Offset) (now : Cycles) :
    decodeOperand (BitVec.ofNat 8 k.val) a now = streamRead k := by
  have hk : (BitVec.ofNat 8 k.val).toNat = k.val := by
    rw [BitVec.toNat_ofNat]
    omega
  rw [decodeOperand, dif_pos (by omega)]
  exact congrArg streamRead (Fin.ext hk)

theorem decodeOperand_of_gt {rom : Byte} (a : Offset) (now : Cycles) (h : 0x22 < rom) :
    decodeOperand rom a now = .pass rom a := by
  have hlt : 0x22 < rom.toNat := h
  have hne : rom ≠ 0x22 := by
    rintro rfl
    exact absurd hlt (by decide)
  rw [decodeOperand, dif_neg (by omega), if_neg hne]

theorem decodeCallfnArg_of_ne {val : Byte} (now : Cycles) (h254 : val ≠ 254) (h255 : val ≠ 255) :
    decodeCallfnArg val now = .callfnNop val := by
  rw [decodeCallfnArg, if_neg h254, if_neg h255]

/-! ### The encoder's packets of the rows that go by a number -/

theorem encode_bankReadRow (n : Fin 7) :
    encode (bankReadRow n) = ⟨.hostRead, bytesOf 2 (BitVec.ofNat 12 (0xFF5 + n.val)).toNat⟩ := by
  fin_cases n <;> rfl

theorem encode_bankWriteRow (n : Fin 7) (val : Byte) :
    encode (bankWriteRow n val) = writePacket (0xFF5 + n.val) val 0 := by
  fin_cases n <;> rfl

theorem encode_streamRead (k : Fin 34) : encode (streamRead k) = operandPacket (BitVec.ofNat 8 k.val) 0 0 := by
  fin_cases k <;> rfl

/-! ### Decoding what was encoded -/

/-- The offset of bank `n`'s hotspot selects bank `n` (R93). -/
theorem hotspotBank?_ofNat (n : Fin 7) : hotspotBank? (BitVec.ofNat 12 (0xFF5 + n.val)) = some n :=
  hotspotBank?_of_eq (by rw [BitVec.toNat_ofNat]; omega)

theorem decode_encode_bankReadRow (n : Fin 7) : decode (encode (bankReadRow n)) = .ok (bankReadRow n) := by
  rw [encode_bankReadRow, decode_offsetPacket (f := decodeHostRead) _ rfl fun _ => rfl,
    decodeHostRead_of_some (hotspotBank?_ofNat n)]

theorem decode_encode_bankWriteRow (n : Fin 7) (val : Byte) :
    decode (encode (bankWriteRow n val)) = .ok (bankWriteRow n val) := by
  rw [encode_bankWriteRow, decode_writePacket val 0 (by omega), decodeHostWrite_of_some val 0 (hotspotBank?_ofNat n)]

theorem decode_encode_streamRead (k : Fin 34) : decode (encode (streamRead k)) = .ok (streamRead k) := by
  rw [encode_streamRead, decode_operandPacket, decodeOperand_stream]

/-- A ROMREAD of a hotspot is a packet of the locked port, of any other offset one of HOST_READ (R91, R171). -/
theorem decode_encode_romread (a : Offset) : decode (encode (.romread a)) = .ok (.romread a) := by
  rw [encode]
  split_ifs with hhot
  · exact decode_offsetPacket (f := .romread) a rfl fun _ => rfl
  · rw [decode_offsetPacket (f := decodeHostRead) a rfl fun _ => rfl,
      decodeHostRead_of_none (hotspotBank?_eq_none_of_isHotspot_eq_false (Bool.eq_false_iff.mpr hhot))]

theorem decode_encode_writeIgnored {a : Offset} (val : Byte) (h : isWritePort a = false) :
    decode (encode (.writeIgnored a val)) = .ok (.writeIgnored a val) := by
  rw [encode, decode_writePacket val 0 (by omega), BitVec.ofNat_toNat, BitVec.setWidth_eq,
    decodeHostWrite_of_not_writePort val 0 h]

theorem decode_encode_pass {rom : Byte} (a : Offset) (h : 0x22 < rom) :
    decode (encode (.pass rom a)) = .ok (.pass rom a) := by
  rw [encode, decode_operandPacket, decodeOperand_of_gt a 0 h]

theorem decode_encode_callfnNop {val : Byte} (h254 : val ≠ 254) (h255 : val ≠ 255) :
    decode (encode (.callfnNop val)) = .ok (.callfnNop val) :=
  (decode_callfnPacket val 0).trans (congrArg _ (decodeCallfnArg_of_ne 0 h254 h255))

/-- Settles O1: each row's packet is read back by its port; only the three rows that stand for what the other rows
of their format leave (R105) need their operand to be well-formed. -/
theorem decodeOfEncodeIsTheOperation : Obligations.DecodeOfEncodeIsTheOperation := by
  intro i
  cases i using Instr.rowCases with
  | streamRead k => exact fun _ => decode_encode_streamRead k
  | bankRead n => exact fun _ => decode_encode_bankReadRow n
  | bankWrite n val => exact fun _ => decode_encode_bankWriteRow n val
  | jmpCont a => exact fun _ => decode_offsetPacket (f := .jmpCont) a rfl fun _ => rfl
  | romread a => exact fun _ => decode_encode_romread a
  | dswrite val => exact fun _ => decode_writePacket val 0 (by decide)
  | dsptr val => exact fun _ => decode_writePacket val 0 (by decide)
  | setmode val => exact fun _ => decode_writePacket val 0 (by decide)
  | callfn val now => exact fun _ => decode_writePacket val now (by decide)
  | writeIgnored a val => exact fun hwf => decode_encode_writeIgnored val ((Bool.not_eq_true' _).mp hwf)
  | jmpFast a => exact fun _ => decode_opcodePacket 0x4C 0 0 a
  | ldaImm a => exact fun _ => decode_opcodePacket 0xA9 0 0 a
  | amplitude now => exact fun _ => decode_operandPacket 0x22 0 now
  | pass rom a => exact fun hwf => decode_encode_pass a (of_decide_eq_true hwf)
  | callfnRun254 now => exact fun _ => decode_callfnPacket 254 now
  | callfnRun255 now => exact fun _ => decode_callfnPacket 255 now
  | callfnNop val =>
    intro hwf
    obtain ⟨h254, h255⟩ := Bool.and_eq_true_iff.mp hwf
    exact decode_encode_callfnNop (of_decide_eq_true h254) (of_decide_eq_true h255)
  | setnote v f => exact fun _ => decode_callbackPacket 0 v f
  | resetwave v => exact fun _ => decode_callbackPacket 1 v 0
  | getwaveptr v => exact fun _ => decode_callbackPacket 2 v 0
  | setwavesize v size => exact fun _ => decode_callbackPacket 3 v size
  | reset now => exact fun _ => decode_encode_reset now
  | cyclesreset offset => exact fun _ => decode_encode_cyclesreset offset
  | setbanklock b => exact fun _ => decode_encode_setbanklock b
  | patch addr val => exact fun _ => decode_encode_patch addr val
  | getbank => exact fun _ => decode_encode_getbank
  | armramread x => exact fun _ => decode_encode_armramread x
  | armromread x => exact fun _ => decode_encode_armromread x
  | armramwrite x val => exact fun _ => decode_encode_armramwrite x val

/-! ### Words of the opcode table -/

/-- A table word is looked up in one port, and decoded there with the bytes above it 0 (log 21). -/
theorem decodeTableWord_of_decode {nbits w : Nat} {p : Packet} {i : Instr} (hport : tablePacket nbits w = some p)
    (hdecode : decode ⟨p.port, p.bytes ++ List.replicate 11 0⟩ = .ok i) : decodeTableWord nbits w = some i := by
  simp only [decodeTableWord, hport, hdecode]

/-- Settles O59: for each word the port and bytes it is looked up as, then what they decode to. -/
theorem writtenOutWordsDecode : Obligations.WrittenOutWordsDecode :=
  ⟨decodeTableWord_of_decode (p := ⟨.ffOperand, [0x05]⟩) rfl rfl,
    decodeTableWord_of_decode (p := ⟨.ffOperand, [0x22]⟩) rfl rfl,
    decodeTableWord_of_decode (p := ⟨.ffOpcode, [0xA9]⟩) rfl rfl,
    decodeTableWord_of_decode (p := ⟨.callfnArg, [0xFE]⟩) rfl rfl,
    decodeTableWord_of_decode (p := ⟨.hostWrite, [0xF0, 0x0F]⟩) rfl rfl,
    decodeTableWord_of_decode (p := ⟨.hostRead, [0xF8, 0x0F]⟩) rfl rfl,
    decodeTableWord_of_decode (p := ⟨.ffOpcode, [0x4C, 0x00, 0x00]⟩) rfl rfl,
    decodeTableWord_of_decode (p := ⟨.armCallback, [3, 0, 0, 0]⟩) rfl rfl⟩

end Sys2Proof
end

section
/-! ### CALLFN (30_encoding.md R97, R205, R220) -/

namespace Sys2Proof.Machine

theorem exec_callfn_of_run {val : Byte} (now : Cycles) (s : State) (h : val = 254 ∨ val = 255) :
    exec (.callfn val now) s = armRun now s :=
  if_pos h

theorem exec_callfn_of_ne {val : Byte} (now : Cycles) (s : State) (h254 : val ≠ 254) (h255 : val ≠ 255) :
    exec (.callfn val now) s = .next { s with result := .nothing } :=
  if_neg (not_or.mpr ⟨h254, h255⟩)

theorem exec_callfnNop (val : Byte) (s : State) : exec (.callfnNop val) s = .next { s with result := .nothing } := rfl

/-- CALLFN is the CALLFN_ARG row of its value (R205). -/
theorem exec_callfn_eq_row (val : Byte) (now : Cycles) (s : State) :
    exec (.callfn val now) s = exec (decodeCallfnArg val now) s := by
  unfold decodeCallfnArg
  split_ifs with h254 h255
  · exact exec_callfn_of_run now s (.inl h254)
  · exact exec_callfn_of_run now s (.inr h255)
  · exact exec_callfn_of_ne now s h254 h255

/-- Settles O29, from what CALLFN does on each side of 254. -/
theorem callfnOtherValuesDoNothing : Obligations.CallfnOtherValuesDoNothing :=
  ⟨fun val now s h254 h255 => ⟨exec_callfn_of_ne now s h254 h255, exec_callfnNop val s⟩, exec_callfn_eq_row⟩

end Sys2Proof.Machine
end

section
/-! PROOFS, family 40_stream_codec: table words as numbers, the stream read, the waveform offset. -/

namespace Sys2Proof.Machine

/-! ### Table words as numbers (R12, R120, R122) -/

/-- Two bit strings side by side, as a number. -/
theorem toNat_append_eq_mul_add {m n : Nat} (x : BitVec m) (y : BitVec n) :
    (x ++ y).toNat = x.toNat * 2 ^ n + y.toNat := by
  rw [BitVec.toNat_append, ← Nat.shiftLeft_add_eq_or_of_lt y.isLt, Nat.shiftLeft_eq]

/-- `LE32(o)` as a number: the lowest address is the least significant byte (R12). -/
theorem readLE32_toNat (m : Memory) (o : Nat) :
    (readLE32 m o).toNat = (readByte m o).toNat + 256 * (readByte m (o + 1)).toNat +
      65536 * (readByte m (o + 2)).toNat + 16777216 * (readByte m (o + 3)).toNat := by
  simp only [readLE32, toNat_append_eq_mul_add]
  omega

/-- Settles O9: both tables hold `LE32` words. -/
theorem tableWordsAreLittleEndian : Obligations.TableWordsAreLittleEndian := fun s i =>
  ⟨readLE32_toNat s.ram (ptrOffset i), readLE32_toNat s.ram (incOffset i)⟩

/-! ### The stream read (R125, R126) -/

/-- The answer is no part of RAM. -/
@[simp] theorem getPtr_answer (r : Result) (s : State) (i : Fin 34) : getPtr (answer r s) i = getPtr s i := rfl

/-- The byte a pointer names, `D[p[31:20]]`, by its RAM address (R12, R25). -/
theorem displayByte_streamIndex (s : State) (p : Word32) :
    displayByte s (streamIndex p) = readByte s.ram (0x0800 + p.toNat / 1048576) := by
  rw [displayByte, streamIndex, BitVec.toNat_ushiftRight, Nat.shiftRight_eq_div_pow]
  rfl

/-- A captured stream read, its byte and its pointer taken from the state before: the latches it clears are no part
of RAM. -/
theorem exec_streamRead_eq (i : Fin 34) (s : State) :
    exec (streamRead i) s = .next (answer (.byte (displayByte s (streamIndex (getPtr s i))))
      (setPtr i (getPtr s i + getInc s i <<< 12) (clearLda (clearJump s)))) :=
  exec_streamRead i s

/-- Settles O7: the byte of `readStream`, `set_ptr`'s one word of RAM, and the latches of steps 4 and 5. -/
theorem streamReadReturnsByteThenAdvancesPointer : Obligations.StreamReadReturnsByteThenAdvancesPointer := by
  intro i s
  refine ⟨_, exec_streamRead_eq i s, ?data, ?pointer, ?memory⟩
  case data => rw [displayByte_streamIndex]; rfl
  case pointer => rw [getPtr_answer, getPtr_setPtr_same]
  case memory =>
    intro k hk
    rw [answer_ram]
    exact setPtr_ramSameOutside i _ (clearLda (clearJump s)) k hk

/-- The pointer after a stream read (R124, R125). -/
theorem getPtr_of_exec_streamRead {i : Fin 34} {s t : State} (h : exec (streamRead i) s = .next t) :
    getPtr t i = getPtr s i + getInc s i <<< 12 := by
  cases (exec_streamRead_eq i s).symm.trans h
  rw [getPtr_answer, getPtr_setPtr_same]

/-- `inc << 12` in 32 bits is 4096 times the low 20 bits (R124). -/
theorem toNat_shiftLeft_twelve (inc : Word32) : (inc <<< 12).toNat = inc.toNat % 1048576 * 4096 := by
  rw [BitVec.toNat_shiftLeft, Nat.shiftLeft_eq]
  omega

/-- Settles O8: the amount added is a multiple of 4096, and so is 2^32. -/
theorem streamReadKeepsLowPointerBits : Obligations.StreamReadKeepsLowPointerBits := by
  intro i s t h
  have hptr : (getPtr t i).toNat = ((getPtr s i).toNat + (getInc s i).toNat % 1048576 * 4096) % 4294967296 := by
    rw [getPtr_of_exec_streamRead h, BitVec.toNat_add, toNat_shiftLeft_twelve]
  exact ⟨hptr, by omega⟩

/-! ### The waveform offset (R128) -/

/-- R128's mask is needed from 4096 up only, and below that it changes nothing. -/
theorem toNat_mask_if_ge (r : Word32) : (if 4096 ≤ r.toNat then r &&& 4095 else r).toNat = r.toNat % 4096 := by
  split
  · rw [BitVec.toNat_and]
    exact Nat.and_two_pow_sub_one_eq_mod r.toNat 12
  · next hlt => exact (Nat.mod_eq_of_lt (not_le.mp hlt)).symm

/-- Wrapping subtraction in 32 bits as a number. -/
theorem toNat_sub_word (w c : Word32) : (w - c).toNat = (w.toNat + 4294967296 - c.toNat) % 4294967296 := by
  have hc := c.isLt
  rw [BitVec.toNat_sub]
  omega

/-- Settles O10: the subtraction wraps in 32 bits, then the mask. -/
theorem waveformOffsetIsMaskedDifference : Obligations.WaveformOffsetIsMaskedDifference := by
  intro s v
  calc getWaveform s v
      = (readLE32 s.ram (0x07F0 + 4 * (v.val + 1)) - 0x40000800).toNat % 4096 := toNat_mask_if_ge _
    _ = ((readLE32 s.ram (0x07F0 + 4 * (v.val + 1))).toNat + 4294967296 - 0x40000800) % 4294967296 % 4096 :=
        congrArg (· % 4096) (toNat_sub_word _ 0x40000800)

end Sys2Proof.Machine
end

section
/-! PROOFS, family 41_audio: the oscillator update, the two samples. -/

namespace Sys2Proof.Machine

/-! ### The oscillator update (R140 to R144) -/

/-- Advancing writes the counters and nothing else (R144). -/
theorem advanceCounters_eq (whole : Int) (s : State) :
    advanceCounters whole s = { s with musicCounters := (advanceCounters whole s).musicCounters } := by
  unfold advanceCounters
  split <;> rfl

/-- A voice's counter after `whole` ticks: none are counted backwards (R142, R144). -/
theorem get_advanceCounters_toNat (whole : Int) (s : State) (v : Fin 3) :
    (((advanceCounters whole s).musicCounters.get v).toNat : Int) =
      if whole ≤ 0 then ((s.musicCounters.get v).toNat : Int)
      else ((s.musicCounters.get v).toNat + (s.musicFrequencies.get v).toNat * whole) % 4294967296 := by
  unfold advanceCounters
  split
  · rfl
  · fin_cases v <;> exact advanceCounter_toNat _ _ whole

theorem updateAudio_of_rational {s : State} (now : Cycles) (h : s.oscArith = .rational) :
    updateAudio now s = advanceCounters (ticksRational (audioDelta now s) s.oscRem).1
      { s with audioCycles := now, oscRem := (ticksRational (audioDelta now s) s.oscRem).2 } := by
  simp only [updateAudio, h]

theorem updateAudio_of_f64Reference {s : State} (now : Cycles) (h : s.oscArith = .f64Reference) :
    updateAudio now s = advanceCounters (ticksF64 (audioDelta now s) s.fractionalClocks).1
      { s with audioCycles := now, fractionalClocks := (ticksF64 (audioDelta now s) s.fractionalClocks).2 } := by
  simp only [updateAudio, h]

/-- The residue as a number (R143). -/
theorem ticksRational_rem (delta : Int) (oscRem : Nat) :
    ((ticksRational delta oscRem).2 : Int) = (2400 * delta + oscRem) % 143183 :=
  Int.toNat_of_nonneg (Int.emod_nonneg _ (by decide))

/-! ### AMPLITUDE (R140, R145) -/

/-- The state AMPLITUDE takes its sample from: both operand addresses cleared, then the update (R175, R176, R145). -/
def amplitudeUpdate (now : Cycles) (s : State) : State := updateAudio now (clearLda (clearJump s))

/-- AMPLITUDE answers the sample of the updated state (R145). -/
theorem exec_amplitude (now : Cycles) (s : State) : exec (.amplitude now) s =
    .next (answer (.byte (sample (amplitudeUpdate now s))) (amplitudeUpdate now s)) := rfl

/-- What AMPLITUDE writes, whichever the arithmetic: where the update advances the counters of `u` by `whole` ticks,
the next state is `u` but for counters and answer. -/
theorem exec_amplitude_of_update {now : Cycles} {s u : State} {whole : Int}
    (h : amplitudeUpdate now s = advanceCounters whole u) :
    ∃ t, exec (.amplitude now) s = .next t ∧
      t = { u with musicCounters := t.musicCounters, result := t.result } ∧
      ∀ v : Fin 3, ((t.musicCounters.get v).toNat : Int) =
        if whole ≤ 0 then ((u.musicCounters.get v).toNat : Int)
        else ((u.musicCounters.get v).toNat + (u.musicFrequencies.get v).toNat * whole) % 4294967296 := by
  refine ⟨_, exec_amplitude now s, ?frame, fun v => ?counters⟩
  case frame => rw [h, advanceCounters_eq]; rfl
  case counters => rw [answer_musicCounters, h]; exact get_advanceCounters_toNat whole u v

/-- Settles O11, from the update under rational arithmetic. -/
theorem amplitudeAdvancesTheOscillator : Obligations.AmplitudeAdvancesTheOscillator := by
  intro now s hrat x
  obtain ⟨t, hexec, hframe, hcounters⟩ :=
    exec_amplitude_of_update (updateAudio_of_rational (s := clearLda (clearJump s)) now hrat)
  have hrem : t.oscRem = (ticksRational (audioDelta now s) s.oscRem).2 := by rw [hframe]; rfl
  refine ⟨t, hexec, ?frame, ?residue, hcounters⟩
  case frame => rw [hrem]; exact hframe
  case residue => rw [hrem]; exact ticksRational_rem _ _

/-- Settles O12, from the update under binary64 arithmetic. -/
theorem amplitudeUnderBinary64KeepsTheRationalResidue :
    Obligations.AmplitudeUnderBinary64KeepsTheRationalResidue := fun now s hf64 =>
  exec_amplitude_of_update (updateAudio_of_f64Reference (s := clearLda (clearJump s)) now hf64)

/-! ### What the sample reads (R145 to R149) -/

section
variable (now : Cycles) (s : State)

@[simp] theorem amplitudeUpdate_image : (amplitudeUpdate now s).image = s.image := by simp [amplitudeUpdate]

@[simp] theorem amplitudeUpdate_ram : (amplitudeUpdate now s).ram = s.ram := by simp [amplitudeUpdate]

@[simp] theorem amplitudeUpdate_mode : (amplitudeUpdate now s).mode = s.mode := by simp [amplitudeUpdate]

@[simp] theorem amplitudeUpdate_musicWaveformSize :
    (amplitudeUpdate now s).musicWaveformSize = s.musicWaveformSize := by simp [amplitudeUpdate]

@[simp] theorem amplitudeUpdate_freeCount : (amplitudeUpdate now s).freeCount = s.freeCount := by
  simp [amplitudeUpdate]

@[simp] theorem digitalAudioOn_amplitudeUpdate : digitalAudioOn (amplitudeUpdate now s) = digitalAudioOn s := by
  simp [digitalAudioOn]

@[simp] theorem getWaveform_amplitudeUpdate (v : Fin 3) : getWaveform (amplitudeUpdate now s) v = getWaveform s v := by
  simp [getWaveform]

end

/-! ### The digital sample (R146, R147) -/

/-- The sample address as a number (R146, D21). -/
theorem sampleAddr_toNat (s : State) : (sampleAddr s).toNat =
    ((readLE32 s.ram 0x07F0).toNat + s.musicCounters.v0.toNat / 2097152) % 4294967296 := by
  rw [sampleAddr, BitVec.toNat_add, BitVec.toNat_ushiftRight, Nat.shiftRight_eq_div_pow]
  rfl

theorem armRomOffset?_of_lt {x : Word32} (h : x.toNat < 0x8000) : armRomOffset? x = some x.toNat := if_pos h

theorem armRamOffset?_of_mem {x : Word32} (h : 0x40000000 ≤ x.toNat ∧ x.toNat < 0x40002000) :
    armRamOffset? x = some (x.toNat - 0x40000000) := if_pos h

/-- The sampled byte by the three regions of the address (R146, R244). -/
theorem sampleByte_eq (s : State) : sampleByte s =
    if (sampleAddr s).toNat < 0x8000 then readByte s.image (sampleAddr s).toNat
    else if 0x40000000 ≤ (sampleAddr s).toNat ∧ (sampleAddr s).toNat < 0x40002000 then
      readByte s.ram ((sampleAddr s).toNat - 0x40000000)
    else 0 := by
  unfold sampleByte
  split_ifs with hrom hram
  · rw [armRomOffset?_of_lt hrom]
  · rw [armRomOffset?_eq_none_iff.mpr (not_lt.mp hrom), armRamOffset?_of_mem hram]
  · rw [armRomOffset?_eq_none_iff.mpr (not_lt.mp hrom), armRamOffset?_eq_none_iff.mpr (by omega)]

/-- A nibble of a byte as a number (R147). -/
theorem nibble_eq (low : Bool) (b : Byte) : (if low then b else b >>> 4) &&& 0x0F =
    BitVec.ofNat 8 (if low then b.toNat % 16 else b.toNat / 16) := by
  have hb := b.isLt
  apply BitVec.eq_of_toNat_eq
  rw [BitVec.toNat_and, BitVec.toNat_ofNat, show (0x0F : Byte).toNat = 2 ^ 4 - 1 from rfl,
    Nat.and_two_pow_sub_one_eq_mod]
  cases low with
  | false =>
    simp only [Bool.false_eq_true, if_false, BitVec.toNat_ushiftRight, Nat.shiftRight_eq_div_pow]
    omega
  | true =>
    simp only [if_true]
    omega

/-- Settles O13, from the address, the region and the nibble of the updated state. -/
theorem amplitudeDigitalSampleIsTheNibble : Obligations.AmplitudeDigitalSampleIsTheNibble := by
  intro now s hdigital
  refine ⟨_, exec_amplitude now s, ?_⟩
  have hsample : sample (amplitudeUpdate now s) = digitalSample (amplitudeUpdate now s) := by
    rw [sample, digitalAudioOn_amplitudeUpdate, if_pos hdigital]
  simp only [answer_result, answer_musicCounters, hsample, digitalSample, nibble_eq, sampleByte_eq, sampleAddr_toNat,
    amplitudeUpdate_ram, amplitudeUpdate_image]

/-! ### The additive sample (R149, R150) -/

/-- The mixer index with its shift as a division (R149). -/
theorem mixerIndex_eq (s : State) (v : Fin 3) : mixerIndex s v =
    getWaveform s v + (s.musicCounters.get v).toNat / 2 ^ (s.musicWaveformSize.get v).toNat := by
  rw [mixerIndex, BitVec.toNat_ushiftRight, Nat.shiftRight_eq_div_pow]

/-- A term is a display byte where R150 does not open it, and its own free byte where it does (D10, D11). -/
theorem mixerTerm_eq (s : State) (v : Fin 3) : mixerTerm s v =
    if (s.musicWaveformSize.get v).toNat < 32 ∧ mixerIndex s v < 6144 then
      readByte s.ram (0x0800 + mixerIndex s v)
    else Config.freeByte s.freeCount (2 + v.val) := by
  unfold mixerTerm
  split_ifs with hopen hclosed hclosed
  · exact absurd hopen (by rw [not_or, not_le, not_le]; exact hclosed)
  · rfl
  · rfl
  · exact absurd (by rwa [not_or, not_le, not_le] at hopen) hclosed

/-- Settles O14, with the mixer terms of the updated state. -/
theorem amplitudeAdditiveSampleIsTheSum : Obligations.AmplitudeAdditiveSampleIsTheSum := by
  intro now s hadditive
  refine ⟨_, mixerTerm (amplitudeUpdate now s), exec_amplitude now s, ?sum, fun v => ?term⟩
  case sum =>
    rw [answer_result, sample, digitalAudioOn_amplitudeUpdate, hadditive]
    rfl
  case term =>
    have hterm := mixerTerm_eq (amplitudeUpdate now s) v
    simp only [mixerIndex_eq, getWaveform_amplitudeUpdate, amplitudeUpdate_ram, amplitudeUpdate_musicWaveformSize,
      amplitudeUpdate_freeCount] at hterm
    exact hterm

end Sys2Proof.Machine
end

section
/-! PROOFS, family 41_audio: the binary64 operations round to nearest, ties to even (R142, R143; D3, log 7). -/

namespace Sys2Proof.Machine

/-! ### The rounded significand -/

/-- The significand that `f64Round` keeps of `n / d`. -/
def f64Significand (n d : ℕ) : ℕ := roundHalfEven (scaledQuotient n d (f64Scale n d))

/-- The exponent steps and the significand of `n / d` in one number: all bits of the pattern but the sign. -/
def f64Magnitude (n d : ℕ) : ℕ := (1074 - f64Scale n d).toNat * 4503599627370496 + f64Significand n d

theorem f64Round_of_ne_zero {n : ℤ} (d : ℕ) (hn : n ≠ 0) : f64Round n d =
    BitVec.ofNat 64 ((if decide (n < 0) then 9223372036854775808 else 0) + f64Magnitude n.natAbs d) := by
  rw [f64Round, if_neg hn]
  simp only [decide_eq_true_eq]
  rfl

/-- The quotient that is rounded to the significand. -/
def f64Scaled (n d : ℕ) : ℚ := (n : ℚ) / d * 2 ^ f64Scale n d

theorem f64Scaled_lt {n d : ℕ} (hn : 0 < n) (hd : 0 < d) : f64Scaled n d < 2 ^ 53 := by
  obtain ⟨-, hlt, -⟩ := f64Scale_bounds n d hn hd
  exact hlt

theorem le_f64Scaled {n d : ℕ} (hn : 0 < n) (hd : 0 < d) (h : f64Scale n d < 1074) : 2 ^ 52 ≤ f64Scaled n d := by
  obtain ⟨-, -, hge⟩ := f64Scale_bounds n d hn hd
  exact hge h

/-- The significand is an integer nearest to the scaled quotient, and the even one where two are as near. -/
theorem f64Significand_nearest (n : ℕ) {d : ℕ} (hd : 0 < d) (k : ℤ) :
    |(f64Significand n d : ℚ) - f64Scaled n d| ≤ |(k : ℚ) - f64Scaled n d| ∧
    (|(f64Significand n d : ℚ) - f64Scaled n d| = |(k : ℚ) - f64Scaled n d| →
      k ≠ (f64Significand n d : ℕ) → f64Significand n d % 2 = 0) := by
  obtain ⟨a, b, hb, hquot, hratio⟩ := scaledQuotient_eq n d hd (f64Scale n d)
  rw [f64Significand, f64Scaled, hquot, ← hratio]
  exact roundHalfEven_nearest a b hb k

/-- Rounding passes no integer upwards. -/
theorem f64Significand_le {n d : ℕ} (hd : 0 < d) (k : ℕ) (h : f64Scaled n d ≤ k) :
    f64Significand n d ≤ k := by
  have hnear := (f64Significand_nearest n hd k).1
  rw [Int.cast_natCast, abs_of_nonneg (sub_nonneg.mpr h)] at hnear
  have hle := le_trans (le_abs_self _) hnear
  exact_mod_cast (sub_le_sub_iff_right _).mp hle

/-- Rounding passes no integer downwards. -/
theorem le_f64Significand {n d : ℕ} (hd : 0 < d) (k : ℕ) (h : (k : ℚ) ≤ f64Scaled n d) :
    k ≤ f64Significand n d := by
  have hnear := (f64Significand_nearest n hd k).1
  rw [Int.cast_natCast, abs_sub_comm (k : ℚ), abs_sub_comm, abs_of_nonneg (sub_nonneg.mpr h)] at hnear
  have hle := le_trans (le_abs_self _) hnear
  exact_mod_cast (sub_le_sub_iff_left _).mp hle

/-- The significand has at most 53 bits, or is the next power of two. -/
theorem f64Significand_le_two_pow {n d : ℕ} (hn : 0 < n) (hd : 0 < d) : f64Significand n d ≤ 9007199254740992 :=
  f64Significand_le hd _ ((f64Scaled_lt hn hd).le.trans (by norm_num))

/-- Outside the subnormal scaling the significand has its leading bit. -/
theorem two_pow_le_f64Significand {n d : ℕ} (hn : 0 < n) (hd : 0 < d) (h : f64Scale n d < 1074) :
    4503599627370496 ≤ f64Significand n d :=
  le_f64Significand hd _ (le_trans (by norm_num) (le_f64Scaled hn hd h))

/-- What is no larger than the largest finite number, scaled. -/
theorem mul_two_zpow_le {q : ℚ} (hq : q ≤ f64Largest) (sh : ℤ) : q * 2 ^ sh ≤ 9007199254740991 * 2 ^ (971 + sh) := by
  have hsplit : (2 : ℚ) ^ (971 + sh) = 2 ^ 971 * 2 ^ sh := by rw [zpow_add₀ two_ne_zero, zpow_ofNat]
  rw [hsplit, ← mul_assoc]
  exact mul_le_mul_of_nonneg_right hq (zpow_nonneg zero_le_two sh)

/-- The coarsest scaling of a finite number is `2 ^ (-971)`. -/
theorem le_f64Scale {n d : ℕ} (hn : 0 < n) (hd : 0 < d) (h : (n : ℚ) / d ≤ f64Largest) : -971 ≤ f64Scale n d := by
  by_contra! hlt
  have hscaled := (le_f64Scaled hn hd (by omega)).trans (mul_two_zpow_le h _)
  have hhalf : (2 : ℚ) ^ (971 + f64Scale n d) ≤ 2 ^ (-1 : ℤ) := zpow_le_zpow_right₀ one_le_two (by omega)
  norm_num at hscaled hhalf
  linarith

/-- A quotient no larger than the largest finite number stays below the exponent of the infinities. -/
theorem f64Magnitude_lt {n d : ℕ} (hn : 0 < n) (hd : 0 < d) (h : (n : ℚ) / d ≤ f64Largest) :
    f64Magnitude n d < 2047 * 4503599627370496 := by
  have hsig := f64Significand_le_two_pow hn hd
  rw [f64Magnitude]
  rcases eq_or_lt_of_le (le_f64Scale hn hd h) with hcoarsest | hfiner
  · have hlast : f64Significand n d ≤ 9007199254740991 := by
      have hscaled := mul_two_zpow_le h (f64Scale n d)
      rw [← hcoarsest, add_neg_cancel, zpow_zero, mul_one, hcoarsest] at hscaled
      exact f64Significand_le hd _ (by exact_mod_cast hscaled)
    omega
  · omega

/-! ### The number of a rounded quotient -/

/-- The pattern that `f64Round` builds: its number, that it is finite, and its last bit. -/
theorem f64Round_fields {n : ℤ} {d : ℕ} (hn : n ≠ 0) (hd : 0 < d) (h : (n.natAbs : ℚ) / d ≤ f64Largest) :
    f64Number (f64Round n d) = n.sign * f64Significand n.natAbs d * 2 ^ (-f64Scale n.natAbs d) ∧
      f64Finite (f64Round n d) ∧ (f64Round n d).getLsbD 0 = decide (f64Significand n.natAbs d % 2 = 1) := by
  have hpos := Int.natAbs_pos.mpr hn
  have hmag := f64Magnitude_lt hpos hd h
  have hsign : (n.sign : ℚ) = if decide (n < 0) then -1 else 1 := by
    rcases lt_or_gt_of_ne hn with hneg | hpos
    · simp [hneg, Int.sign_eq_neg_one_of_neg hneg]
    · simp [hpos.not_gt, Int.sign_eq_one_of_pos hpos]
  obtain ⟨-, hexp, -, hbit⟩ := pattern_fields (decide (n < 0)) (f64Magnitude n.natAbs d) (by omega)
  rw [f64Round_of_ne_zero d hn]
  refine ⟨?number, ?finite, ?bit⟩
  case number =>
    rw [hsign]
    exact number_of_magnitude _ _ _ (f64Scale_bounds _ _ hpos hd).1 (f64Significand_le_two_pow hpos hd)
      (two_pow_le_f64Significand hpos hd) hmag
  case finite =>
    rw [f64Finite, hexp]
    omega
  case bit =>
    rw [hbit, decide_eq_decide, f64Magnitude]
    omega

/-- Among the integers and, where the significand has its leading bit, all that is smaller, the significand is nearest
to the scaled quotient. -/
theorem f64Significand_nearest_grid {n d : ℕ} (hn : 0 < n) (hd : 0 < d) {z : ℚ}
    (hz : (∃ k : ℤ, z = k) ∨ (f64Scale n d < 1074 ∧ |z| < 2 ^ 52)) :
    |(f64Significand n d : ℚ) - f64Scaled n d| ≤ |z - f64Scaled n d| ∧
    (|(f64Significand n d : ℚ) - f64Scaled n d| = |z - f64Scaled n d| →
      z ≠ f64Significand n d → f64Significand n d % 2 = 0) := by
  rcases hz with ⟨k, rfl⟩ | ⟨hscale, hsmall⟩
  · obtain ⟨hnear, htie⟩ := f64Significand_nearest n hd k
    exact ⟨hnear, fun heq hne => htie heq fun hk => hne (by rw [hk, Int.cast_natCast])⟩
  · have hlarge := le_f64Scaled hn hd hscale
    have hfar : |(f64Significand n d : ℚ) - f64Scaled n d| < |z - f64Scaled n d| :=
      calc |(f64Significand n d : ℚ) - f64Scaled n d| ≤ |((2 ^ 52 : ℤ) : ℚ) - f64Scaled n d| :=
            (f64Significand_nearest n hd (2 ^ 52)).1
        _ = f64Scaled n d - 2 ^ 52 := by
            rw [abs_sub_comm, Int.cast_pow, Int.cast_ofNat, abs_of_nonneg (sub_nonneg.mpr hlarge)]
        _ < f64Scaled n d - z := sub_lt_sub_left (lt_of_abs_lt hsmall) _
        _ ≤ |z - f64Scaled n d| := by rw [abs_sub_comm]; exact le_abs_self _
    exact ⟨hfar.le, fun heq => absurd heq hfar.ne⟩

/-! ### Signs -/

theorem sign_mul_sign_eq_one {n : ℤ} (hn : n ≠ 0) : (n.sign : ℚ) * n.sign = 1 := by
  rw [← Int.cast_mul, ← abs_mul_abs_self, Int.abs_sign_of_ne_zero hn, mul_one, Int.cast_one]

theorem intCast_eq_sign_mul_natAbs (n : ℤ) : (n : ℚ) = n.sign * (n.natAbs : ℚ) := by
  rw [← Int.cast_natCast n.natAbs, ← Int.cast_mul, Int.sign_mul_natAbs]

/-- A distance seen from the other side of zero and scaled. -/
theorem abs_sub_mul_of_unit {u : ℚ} (hu : u * u = 1) (z q : ℚ) {p : ℚ} (hp : 0 < p) :
    |z - u * q| * p = |u * (z * p) - q * p| := by
  have habs : |u| = 1 := by rcases mul_self_eq_one_iff.mp hu with rfl | rfl <;> simp
  calc |z - u * q| * p = |u| * |z - u * q| * |p| := by rw [habs, one_mul, abs_of_pos hp]
    _ = |u * (z * p) - u * u * (q * p)| := by rw [← abs_mul, ← abs_mul]; congr 1; ring
    _ = |u * (z * p) - q * p| := by rw [hu, one_mul]

/-- Where a number lies on the grid is the same on the other side of zero. -/
theorem unit_mul_on_grid {u z : ℚ} {P : Prop} (hu : u * u = 1)
    (hz : (∃ k : ℤ, z = k) ∨ (P ∧ |z| < 2 ^ 52)) : (∃ k : ℤ, u * z = k) ∨ (P ∧ |u * z| < 2 ^ 52) := by
  rcases mul_self_eq_one_iff.mp hu with rfl | rfl
  · rwa [one_mul]
  · rw [neg_one_mul, abs_neg]
    refine hz.imp (fun ⟨k, hk⟩ => ⟨-k, ?_⟩) id
    rw [hk, Int.cast_neg]

/-! ### Rounding to nearest -/

/-- The distance from a quotient, scaled as its significand is. -/
theorem abs_sub_quotient_mul {n : ℤ} (d : ℕ) (hn : n ≠ 0) (z : ℚ) :
    |z - (n : ℚ) / d| * 2 ^ f64Scale n.natAbs d =
      |n.sign * (z * 2 ^ f64Scale n.natAbs d) - f64Scaled n.natAbs d| := by
  rw [intCast_eq_sign_mul_natAbs n, mul_div_assoc]
  exact abs_sub_mul_of_unit (sign_mul_sign_eq_one hn) z _ (zpow_pos two_pos _)

/-- The number of a rounded quotient, scaled as its significand is. -/
theorem sign_mul_f64Number_f64Round {n : ℤ} {d : ℕ} (hn : n ≠ 0) (hd : 0 < d)
    (h : (n.natAbs : ℚ) / d ≤ f64Largest) :
    n.sign * (f64Number (f64Round n d) * 2 ^ f64Scale n.natAbs d) = f64Significand n.natAbs d := by
  obtain ⟨hnumber, -, -⟩ := f64Round_fields hn hd h
  have hpow : (2 : ℚ) ^ f64Scale n.natAbs d ≠ 0 := zpow_ne_zero _ two_ne_zero
  calc n.sign * (f64Number (f64Round n d) * 2 ^ f64Scale n.natAbs d)
      = (n.sign * n.sign) * f64Significand n.natAbs d *
          (2 ^ (-f64Scale n.natAbs d) * 2 ^ f64Scale n.natAbs d) := by rw [hnumber]; ring
    _ = f64Significand n.natAbs d := by
        rw [sign_mul_sign_eq_one hn, one_mul, zpow_neg, inv_mul_cancel₀ hpow, mul_one]

/-- Zero is exact. -/
theorem nearestF64_zero : NearestF64 0 0 := by
  have hzero : f64Number 0 = 0 := by simp [f64Number]
  refine ⟨by decide, fun y _ => ⟨?_, fun _ _ => rfl⟩⟩
  rw [hzero, sub_zero, abs_zero]
  exact abs_nonneg _

/-- Rounding a quotient gives a nearest finite number, and the even one of two. -/
theorem f64Round_nearest {n : ℤ} {d : ℕ} (hd : d ≠ 0) (h : |(n : ℚ) / d| ≤ f64Largest) :
    NearestF64 (n / d) (f64Round n d) := by
  rcases eq_or_ne n 0 with rfl | hn
  · rw [Int.cast_zero, zero_div]
    exact nearestF64_zero
  have hdpos := Nat.pos_of_ne_zero hd
  have hnpos := Int.natAbs_pos.mpr hn
  have hunit := sign_mul_sign_eq_one hn
  have hmag : (n.natAbs : ℚ) / d ≤ f64Largest := by
    rwa [abs_div, Nat.abs_cast, ← Int.cast_abs, Int.abs_eq_natAbs, Int.cast_natCast] at h
  obtain ⟨-, hfinite, hbit⟩ := f64Round_fields hn hdpos hmag
  obtain ⟨hscale, -, -⟩ := f64Scale_bounds n.natAbs d hnpos hdpos
  have hpow : (0 : ℚ) < 2 ^ f64Scale n.natAbs d := zpow_pos two_pos _
  refine ⟨hfinite, fun y _ => ?_⟩
  obtain ⟨hnear, htie⟩ :=
    f64Significand_nearest_grid hnpos hdpos (unit_mul_on_grid hunit (number_on_grid y _ hscale))
  rw [← sign_mul_f64Number_f64Round hn hdpos hmag, ← abs_sub_quotient_mul d hn, ← abs_sub_quotient_mul d hn]
    at hnear htie
  refine ⟨le_of_mul_le_mul_right hnear hpow, fun heq hne => ?_⟩
  have heven := htie (by rw [heq]) fun hsame =>
    hne (mul_right_cancel₀ hpow.ne' (mul_left_cancel₀ (left_ne_zero_of_mul_eq_one hunit) hsame))
  rw [hbit, heven]
  rfl

/-! ### The five operations -/

/-- Rounding the number of a fraction, written as it comes. -/
theorem f64Round_nearest_of_eq {q : ℚ} {n : ℤ} {d : ℕ} (hd : d ≠ 0) (hq : (n : ℚ) / d = q) (h : |q| ≤ f64Largest) :
    NearestF64 q (f64Round n d) := by
  subst hq
  exact f64Round_nearest hd h

theorem f64OfInt_nearest {n : ℤ} (h : |(n : ℚ)| ≤ f64Largest) : NearestF64 n (f64OfInt n) :=
  f64Round_nearest_of_eq one_ne_zero (by rw [Nat.cast_one, div_one]) h

theorem f64Add_nearest {x y : BitVec 64} (h : |f64Number x + f64Number y| ≤ f64Largest) :
    NearestF64 (f64Number x + f64Number y) (f64Add x y) := by
  obtain ⟨hx, hx0⟩ := f64Value_eq x
  obtain ⟨hy, hy0⟩ := f64Value_eq y
  refine f64Round_nearest_of_eq (Nat.mul_pos hx0 hy0).ne' ?_ h
  rw [← hx, ← hy]
  push_cast
  field_simp

theorem f64Sub_nearest {x y : BitVec 64} (h : |f64Number x - f64Number y| ≤ f64Largest) :
    NearestF64 (f64Number x - f64Number y) (f64Sub x y) := by
  obtain ⟨hx, hx0⟩ := f64Value_eq x
  obtain ⟨hy, hy0⟩ := f64Value_eq y
  refine f64Round_nearest_of_eq (Nat.mul_pos hx0 hy0).ne' ?_ h
  rw [← hx, ← hy]
  push_cast
  field_simp

theorem f64Div_nearest {x y : BitVec 64} (hne : f64Number y ≠ 0) (h : |f64Number x / f64Number y| ≤ f64Largest) :
    NearestF64 (f64Number x / f64Number y) (f64Div x y) := by
  obtain ⟨hx, hx0⟩ := f64Value_eq x
  obtain ⟨hy, hy0⟩ := f64Value_eq y
  have hnum : (f64Value y).1 ≠ 0 := fun hzero => hne (by rw [← hy, hzero, Int.cast_zero, zero_div])
  refine f64Round_nearest_of_eq (Nat.mul_pos hx0 (Int.natAbs_pos.mpr hnum)).ne' ?_ h
  have hrecip : ((f64Value y).1.sign : ℚ) / (f64Value y).1.natAbs = 1 / (f64Value y).1 := by
    rw [div_eq_div_iff (by exact_mod_cast Int.natAbs_ne_zero.mpr hnum) (by exact_mod_cast hnum),
      intCast_eq_sign_mul_natAbs (f64Value y).1, ← mul_assoc, sign_mul_sign_eq_one hnum]
  calc (((f64Value x).1 * (f64Value y).1.sign * (f64Value y).2 : ℤ) : ℚ) /
        ((f64Value x).2 * (f64Value y).1.natAbs : ℕ)
      = (f64Value x).1 * (f64Value y).2 / (f64Value x).2 * ((f64Value y).1.sign / (f64Value y).1.natAbs) := by
        push_cast; ring
    _ = f64Number x / f64Number y := by rw [hrecip, ← hx, ← hy, div_div_eq_mul_div]; ring

/-- The floor of a pattern is the floor of its number (R142). -/
theorem f64Floor_eq (x : BitVec 64) : f64Floor x = ⌊f64Number x⌋ := by
  rw [← (f64Value_eq x).1, Rat.floor_intCast_div_natCast]
  rfl

theorem le_f64Largest {q : ℚ} (h : q ≤ 9007199254740991) : q ≤ f64Largest :=
  h.trans (le_mul_of_one_le_right (by norm_num) (one_le_pow₀ one_le_two))

/-- Settles O60: each operation is `f64Round` of the exact result written as a fraction. -/
theorem binary64RoundsToNearestEven : Obligations.Binary64RoundsToNearestEven := by
  refine ⟨fun n d => f64Round_nearest, fun n => f64OfInt_nearest,
    fun x y _ _ => ⟨f64Add_nearest, f64Sub_nearest, f64Div_nearest⟩, fun x _ => f64Floor_eq x, ?divisor⟩
  case divisor =>
    exact f64Round_nearest_of_eq (by decide) (by norm_num) (le_f64Largest (by norm_num [abs_of_pos]))

end Sys2Proof.Machine
end

section
/-! PROOFS, family 42_bank: what the rows that reach steps 6 to 9 and the bank writes do (R160 to R162, R182), and
that nothing else but Reset changes the bank (R167). -/

namespace Sys2Proof.Machine

/-! ### The rows that end in steps 4, 6, 7, 8, 9 of the read tree, each as one record -/

/-- The latch after an opcode at `a` holds `a + 1`, 0x1000 at the last offset (R181). -/
theorem toNat_offset_succ (a : Offset) : (a.setWidth 16 + 1 : Word16).toNat = a.toNat + 1 := by
  have := a.isLt
  rw [BitVec.toNat_add, BitVec.toNat_setWidth]
  change (a.toNat % 65536 + 1) % 65536 = a.toNat + 1
  omega

theorem offset_succ_eq_ofNat (a : Offset) : (a.setWidth 16 + 1 : Word16) = BitVec.ofNat 16 (a.toNat + 1) := by
  rw [← toNat_offset_succ, BitVec.ofNat_toNat, BitVec.setWidth_eq]

/-- PASS as one record (R176, R182, R181). -/
theorem exec_pass_eq (rom : Byte) (a : Offset) (s : State) : exec (.pass rom a) s = .next
    { s with
      currentBank := (hotspotBank? a).elim s.currentBank fun n => if s.bankLocked then s.currentBank else n
      jmpOperandAddr := 0
      ldaOperandAddr := if fastFetchOn s = true ∧ rom = 0xA9 then BitVec.ofNat 16 (a.toNat + 1) else 0
      result := .byte rom } := by
  change Host.Outcome.next (answer (.byte rom) (opcodeStep a rom (hotspotStep a (clearLda (clearJump s))))) = _
  rw [opcodeStep_eq, hotspotStep_eq, offset_succ_eq_ofNat]
  simp only [Bool.and_eq_true, decide_eq_true_eq]
  rfl

/-- A bank read goes the way of PASS with the byte of the bank before (R161, R166). -/
theorem exec_bankReadRow_eq_pass (n : Fin 7) (s : State) :
    exec (bankReadRow n) s =
      exec (.pass (romByte s (BitVec.ofNat 12 (0xFF5 + n.val))) (BitVec.ofNat 12 (0xFF5 + n.val))) s := by
  change _ = Host.Outcome.next (answer _ (opcodeStep _ _ (hotspotStep _ (clearLda (clearJump s)))))
  rw [exec_bankReadRow, bankRead, hotspotStep_of_some _ (hotspotBank?_ofNat n)]

/-- LDA.IMM as one record (R181, R182). -/
theorem exec_ldaImm_eq (a : Offset) (s : State) : exec (.ldaImm a) s = .next
    { s with
      currentBank := (hotspotBank? a).elim s.currentBank fun n => if s.bankLocked then s.currentBank else n
      jmpOperandAddr := 0
      ldaOperandAddr := a.setWidth 16 + 1
      result := .byte (romByte s a) } := by
  change Host.Outcome.next (answer (.byte (romByte s a)) (armLda a (hotspotStep a (clearLda (clearJump s))))) = _
  rw [hotspotStep_eq]
  rfl

/-- Settles O18, from PASS as one record. -/
theorem passContinuesTheRead : Obligations.PassContinuesTheRead := fun rom a s => ⟨_, exec_pass_eq rom a s, rfl⟩

/-- Settles O16: a bank read is PASS at the hotspot of bank `n`. -/
theorem bankReadReturnsOldBankByteAndSwitches : Obligations.BankReadReturnsOldBankByteAndSwitches := by
  intro n s
  have hoff : (BitVec.ofNat 12 (0xFF5 + n.val)).toNat = 0xFF5 + n.val := hotspotBank?_some (hotspotBank?_ofNat n)
  have hrom : romByte s (BitVec.ofNat 12 (0xFF5 + n.val)) =
      readByte s.image (4096 + (s.currentBank.val * 4096 + (0xFF5 + n.val))) := by
    rw [romByte, progByte, progIndex, hoff]
  refine ⟨_, (exec_bankReadRow_eq_pass n s).trans (exec_pass_eq _ _ s), ?_⟩
  rw [hotspotBank?_ofNat, hoff, hrom]
  rfl

/-- Settles O15: the lock decides whether the latches are cleared. -/
theorem romreadReturnsTheRomByte : Obligations.RomreadReturnsTheRomByte := by
  intro a s
  change Host.Outcome.next (answer (.byte (romByte s a)) (if s.bankLocked then s else clearLda (clearJump s))) = _
  split_ifs
  · rfl
  · rfl

/-- Where the read tree reaches step 8 by its own conditions, an `A9` byte is LDA.IMM: it begins no jump pattern
(R172, R181). -/
theorem peekRow_of_A9 {s : State} {a : Offset} (now : Cycles) (hlock : s.bankLocked = false)
    (hcont : continuationAt s a = false) (hfast : fastFetchOn s = true) (hlda : ldaLatchAt s a = false)
    (hrom : romByte s a = 0xA9) : peekRow s a now = .ldaImm a := by
  have hjump : jumpPatternAt s a = false := by
    rw [jumpPatternAt, hrom]
    rfl
  simp [peekRow, hlock, hcont, hfast, hlda, hrom, hjump]

/-- Settles O17, from LDA.IMM as one record and the row of a Peek of an `A9`. -/
theorem ldaOpcodeArmsTheLatch : Obligations.LdaOpcodeArmsTheLatch := by
  refine ⟨fun a s => ⟨_, exec_ldaImm_eq a s, toNat_offset_succ a, rfl⟩,
    fun s addr now hlock hcont hfast hlda hrom => ?decodes⟩
  case decodes => rw [decode_hostPacket, hostRow, peekRow_of_A9 now hlock hcont hfast hlda hrom]

/-! ### The bank writes -/

/-- A Poke of a hotspot is the bank write of its bank: no hotspot is CALLFN (R92, R206). -/
theorem pokeRow_of_some {a : Offset} {n : Fin 7} (val : Byte) (now : Cycles) (h : hotspotBank? a = some n) :
    pokeRow a val now = bankWriteRow n val := by
  have hcall : a ≠ 0xFF3 := by
    rintro rfl
    exact nomatch show none = some n from h
  rw [pokeRow, if_neg hcall, decodeHostWrite_of_some val now h]

/-- Settles O25, from `bank(n)` as one record and the row of a Poke at a hotspot. -/
theorem bankWriteSwitchesUnlessLocked : Obligations.BankWriteSwitchesUnlessLocked := by
  refine ⟨fun n val s => ?effect, fun n val now addr s haddr => ?decodes⟩
  case effect => rw [exec_bankWriteRow, bank_eq]; rfl
  case decodes => rw [decode_hostPacket, hostRow, pokeRow_of_some val now (hotspotBank?_of_eq haddr)]

end Sys2Proof.Machine
end

section
/-! ### The rows that select no bank (R160 to R162, R182, R271) -/

namespace Sys2Proof.Machine

/-- A row that can select no bank: no bank row, no RESET, and of the two other rows that pass step 7 only those at an
offset that is no hotspot. -/
def SelectsNoBank : Instr → Prop
  | .bank0R | .bank1R | .bank2R | .bank3R | .bank4R | .bank5R | .bank6R => False
  | .bank0W _ | .bank1W _ | .bank2W _ | .bank3W _ | .bank4W _ | .bank5W _ | .bank6W _ => False
  | .reset _ => False
  | .ldaImm a => hotspotBank? a = none
  | .pass _ a => hotspotBank? a = none
  | _ => True

theorem not_selectsNoBank_bankReadRow (n : Fin 7) : ¬ SelectsNoBank (bankReadRow n) := by fin_cases n <;> exact id

theorem not_selectsNoBank_bankWriteRow (n : Fin 7) (val : Byte) : ¬ SelectsNoBank (bankWriteRow n val) := by
  fin_cases n <;> exact id

theorem streamRead_selectsNoBank (k : Fin 34) : SelectsNoBank (streamRead k) := by fin_cases k <;> trivial

/-- A Peek off the hotspots selects no bank, whichever row the read tree ends at (R167). -/
theorem peekRow_selectsNoBank (s : State) {a : Offset} (now : Cycles) (ha : hotspotBank? a = none) :
    SelectsNoBank (peekRow s a now) := by
  unfold peekRow decodeOperand
  rw [decodeHostRead_of_none ha]
  split_ifs
  · trivial
  · trivial
  · trivial
  · exact streamRead_selectsNoBank _
  · trivial
  · exact ha
  · exact ha
  · trivial

theorem decodeCallfnArg_selectsNoBank (val : Byte) (now : Cycles) : SelectsNoBank (decodeCallfnArg val now) := by
  unfold decodeCallfnArg
  split_ifs <;> trivial

/-- Nor does a Poke; the rows of CALLFN only start a run (R162, R220). -/
theorem pokeRow_selectsNoBank {a : Offset} (val : Byte) (now : Cycles) (ha : hotspotBank? a = none) :
    SelectsNoBank (pokeRow a val now) := by
  unfold pokeRow decodeHostWrite
  rw [ha]
  split_ifs
  · exact decodeCallfnArg_selectsNoBank val now
  all_goals trivial

theorem hotspotBank?_eq_none_of_not_isHotspot {a : Offset} (h : (!isHotspot a) = true) : hotspotBank? a = none :=
  hotspotBank?_eq_none_of_isHotspot_eq_false ((Bool.not_eq_true' _).mp h)

theorem hostRow_selectsNoBank (s : State) {r : HostRequest} (h : leavesBank r = true) :
    SelectsNoBank (hostRow s r) := by
  cases r with
  | peek addr now => exact peekRow_selectsNoBank s now (hotspotBank?_eq_none_of_not_isHotspot h)
  | poke addr val now => exact pokeRow_selectsNoBank val now (hotspotBank?_eq_none_of_not_isHotspot h)
  | reset now => exact absurd h Bool.false_ne_true
  | cyclesReset offset => trivial
  | setBankLock b => trivial
  | patch addr val => trivial
  | getBank => trivial

theorem decodeCallback_selectsNoBank {code a1 a2 : Word32} {i : Instr} (h : decodeCallback code a1 a2 = .ok i) :
    SelectsNoBank i := by
  unfold decodeCallback at h
  split_ifs at h
  all_goals
    cases h
    trivial

end Sys2Proof.Machine
end

section
/-! ### What every row does to the host's queue and, if it selects none, to the bank -/

namespace Sys2Proof.Machine

/-- The bank and the host operations still to come are as before. -/
structure HostSideSame (s t : State) : Prop where
  currentBank : t.currentBank = s.currentBank
  hostQueue : t.hostQueue = s.hostQueue

/-- No row touches the host's queue, and one that selects no bank keeps the bank. -/
structure KeepsHostSide (i : Instr) (s t : State) : Prop where
  hostQueue : t.hostQueue = s.hostQueue
  currentBank : SelectsNoBank i → t.currentBank = s.currentBank

theorem HostSideSame.keeps {s t : State} (i : Instr) (h : HostSideSame s t) : KeepsHostSide i s t :=
  ⟨h.hostQueue, fun _ => h.currentBank⟩

theorem armRun_hostSideSame {now : Cycles} {s t : State} (h : armRun now s = .next t) : HostSideSame s t := by
  obtain ⟨-, -, rfl⟩ := armRun_next h
  exact ⟨rfl, rfl⟩

theorem onVoice_hostSideSame {v : Word32} {f : Fin 3 → State} {s t : State} (h : onVoice v f = .next t)
    (hf : ∀ k, HostSideSame s (f k)) : HostSideSame s t := by
  obtain ⟨k, -, rfl⟩ := onVoice_next h
  exact hf k

theorem audioSample_hostSideSame (now : Cycles) (s : State) : HostSideSame s (capture (audioSample now) s) := by
  constructor <;> simp [capture, audioSample]

theorem exec_keepsHostSide {i : Instr} {s t : State} (h : exec i s = .next t) : KeepsHostSide i s t := by
  induction i using Instr.rowCases with
  | streamRead k =>
    rw [exec_streamRead] at h
    cases h; exact ⟨rfl, fun _ => rfl⟩
  | bankRead n =>
    rw [exec_bankReadRow_eq_pass, exec_pass_eq] at h
    cases h; exact ⟨rfl, fun hnone => absurd hnone (not_selectsNoBank_bankReadRow n)⟩
  | bankWrite n val =>
    rw [exec_bankWriteRow, bank_eq] at h
    cases h; exact ⟨rfl, fun hnone => absurd hnone (not_selectsNoBank_bankWriteRow n val)⟩
  | jmpCont a => cases h; exact ⟨rfl, fun _ => rfl⟩
  | romread a => rw [romreadReturnsTheRomByte] at h; cases h; exact ⟨rfl, fun _ => rfl⟩
  | dswrite val => cases h; exact ⟨rfl, fun _ => rfl⟩
  | dsptr val => cases h; exact ⟨rfl, fun _ => rfl⟩
  | setmode val => cases h; exact ⟨rfl, fun _ => rfl⟩
  | callfn val now =>
    obtain ⟨-, hrun⟩ | ⟨-, rfl⟩ := execCallfn_next h
    · exact (armRun_hostSideSame hrun).keeps _
    · exact ⟨rfl, fun _ => rfl⟩
  | writeIgnored a val => cases h; exact ⟨rfl, fun _ => rfl⟩
  | jmpFast a => cases h; exact ⟨rfl, fun _ => rfl⟩
  | ldaImm a =>
    rw [exec_ldaImm_eq] at h
    cases h; exact ⟨rfl, fun hnone => congrArg (Option.elim · _ _) hnone⟩
  | amplitude now => cases h; exact (audioSample_hostSideSame now s).keeps _
  | pass rom a =>
    rw [exec_pass_eq] at h
    cases h; exact ⟨rfl, fun hnone => congrArg (Option.elim · _ _) hnone⟩
  | callfnRun254 now => exact (armRun_hostSideSame h).keeps _
  | callfnRun255 now => exact (armRun_hostSideSame h).keeps _
  | callfnNop val => cases h; exact ⟨rfl, fun _ => rfl⟩
  | setnote v f => exact (onVoice_hostSideSame h fun _ => ⟨rfl, rfl⟩).keeps _
  | resetwave v => exact (onVoice_hostSideSame h fun _ => ⟨rfl, rfl⟩).keeps _
  | getwaveptr v => exact (onVoice_hostSideSame h fun _ => ⟨rfl, rfl⟩).keeps _
  | setwavesize v size => exact (onVoice_hostSideSame h fun _ => ⟨rfl, rfl⟩).keeps _
  | reset now => cases h; exact ⟨rfl, False.elim⟩
  | cyclesreset offset => cases h; exact ⟨rfl, fun _ => rfl⟩
  | setbanklock b => cases h; exact ⟨rfl, fun _ => rfl⟩
  | patch addr val =>
    obtain ⟨-, rfl⟩ | ⟨-, rfl⟩ := execPatch_next h
    · exact ⟨rfl, fun _ => rfl⟩
    · exact ⟨rfl, fun _ => rfl⟩
  | getbank => cases h; exact ⟨rfl, fun _ => rfl⟩
  | armramread x =>
    obtain ⟨k, -, rfl⟩ | ⟨-, rfl⟩ := execArmramread_next h
    · exact ⟨rfl, fun _ => rfl⟩
    · exact ⟨rfl, fun _ => rfl⟩
  | armromread x =>
    obtain ⟨k, -, rfl⟩ | ⟨-, rfl⟩ := execArmromread_next h
    · exact ⟨rfl, fun _ => rfl⟩
    · exact ⟨rfl, fun _ => rfl⟩
  | armramwrite x val =>
    obtain ⟨k, -, rfl⟩ | ⟨-, rfl⟩ := execArmramwrite_next h
    · exact ⟨rfl, fun _ => rfl⟩
    · exact ⟨rfl, fun _ => rfl⟩

end Sys2Proof.Machine
end

section
/-! ### Steps and sequences of steps (R167) -/

namespace Sys2Proof.Machine

/-- An ARM action of a row that selects no bank leaves both; taking it off the ARM's queue does too. -/
theorem exec_takeArm_hostSideSame {i : Instr} {rest : List ArmRequest} {s t : State}
    (h : exec i (takeArm rest s) = .next t) (hi : SelectsNoBank i) : HostSideSame s t :=
  have hkeeps := exec_keepsHostSide h
  ⟨hkeeps.currentBank hi, hkeeps.hostQueue⟩

/-- Whatever the ARM does in a run, the bank and the host's queue stay (R223, R225). -/
theorem step_armNext_hostSideSame {s t : State} {r : ArmRequest} {rest : List ArmRequest} (hnext : ArmNext s r rest)
    (h : step s = .next t) : HostSideSame s t := by
  cases r with
  | callback code a1 a2 =>
    rw [step_callback hnext] at h
    obtain ⟨i, hdec, hexec⟩ := runPacket_next h
    rw [decode_callbackPacket] at hdec
    exact exec_takeArm_hostSideSame hexec (decodeCallback_selectsNoBank hdec)
  | ramRead x => exact exec_takeArm_hostSideSame ((step_ramRead hnext).symm.trans h) trivial
  | romRead x => exact exec_takeArm_hostSideSame ((step_romRead hnext).symm.trans h) trivial
  | ramWrite x val => exact exec_takeArm_hostSideSame ((step_ramWrite hnext).symm.trans h) trivial
  | internal armState =>
    rw [step_of_armNext hnext, stepArm, hnext.2] at h
    cases h; exact ⟨rfl, rfl⟩
  | finish faulted =>
    rw [step_of_armNext hnext, stepArm, hnext.2] at h
    cases h; exact ⟨rfl, rfl⟩

/-- One step of R167's sequences: the bank stays, and no host operation is added to those still to come. -/
theorem step_leavesBank {s t : State} (hleave : ∀ r ∈ s.hostQueue, leavesBank r = true) (h : step s = .next t) :
    t.currentBank = s.currentBank ∧ t.hostQueue ⊆ s.hostQueue := by
  have harm : HostSideSame s t → t.currentBank = s.currentBank ∧ t.hostQueue ⊆ s.hostQueue :=
    fun hsame => ⟨hsame.currentBank, hsame.hostQueue ▸ List.Subset.refl _⟩
  obtain ⟨-, -, rfl⟩ | ⟨r, rest, _, hnext, -, -⟩ | ⟨_, _, hnext, -⟩ | ⟨_, _, hnext, -⟩ | ⟨_, _, _, _, hnext, -⟩ :=
    step_next h
  · exact ⟨rfl, List.Subset.refl _⟩
  · rw [step_hostRow hnext] at h
    obtain ⟨-, hqueue⟩ := hnext
    rw [hqueue] at hleave ⊢
    have hkeeps := exec_keepsHostSide h
    exact ⟨hkeeps.currentBank (hostRow_selectsNoBank _ (hleave r List.mem_cons_self)),
      hkeeps.hostQueue ▸ List.subset_cons_self r rest⟩
  · exact harm (step_armNext_hostSideSame hnext h)
  · exact harm (step_armNext_hostSideSame hnext h)
  · exact harm (step_armNext_hostSideSame hnext h)

/-- R167 for any number of steps, by induction: the operations still to come stay among those that were. -/
theorem stepsTo_leavesBank (k : Nat) {s t : State} (hleave : ∀ r ∈ s.hostQueue, leavesBank r = true)
    (h : stepsTo k s t) : t.currentBank = s.currentBank := by
  induction k generalizing s with
  | zero => exact congrArg State.currentBank h
  | succ k ih =>
    obtain ⟨u, hstep, hrest⟩ := h
    obtain ⟨hbank, hsub⟩ := step_leavesBank hleave hstep
    exact (ih (fun r hr => hleave r (hsub hr)) hrest).trans hbank

/-- Settles O4, by the induction over steps; RESET assigns the start-up bank. -/
theorem bankStaysWithoutHotspotAccess : Obligations.BankStaysWithoutHotspotAccess :=
  ⟨fun k _ _ hleave h => stepsTo_leavesBank k hleave h, fun _ _ => ⟨_, rfl, rfl⟩⟩

end Sys2Proof.Machine
end

section
/-! PROOFS, family 43_fast_fetch: the branches of R190's read tree, the rows as these branches, and the two
intercepted sequences of reads. -/

/-! ### The branches of R190's tree (R171 to R183) -/

namespace Sys2Proof.Machine

theorem jumpPatternAt_iff {s : State} {a : Offset} :
    jumpPatternAt s a = true ↔ romByte s a = 0x4C ∧ next1 s a = 0 ∧ next2 s a = 0 := by
  simp only [jumpPatternAt, Bool.and_eq_true, decide_eq_true_eq, and_assoc]

/-- Step 1: while bank-locked the tree only answers (R171). -/
theorem peekTree_of_locked {s : State} (addr : Word16) (now : Cycles) (hlock : s.bankLocked = true) :
    peekTree addr now s = answer (.byte (romByte s (windowOffset addr))) s := if_pos hlock

section
variable {s : State} {addr : Word16} (now : Cycles) (hlock : s.bankLocked = false)
include hlock

/-- Step 2 (R173). -/
theorem peekTree_of_continuation (hcont : continuationAt s (windowOffset addr) = true) :
    peekTree addr now s = continueJump s := by
  rw [continueJump_eq]
  exact (if_neg (Bool.eq_false_iff.mp hlock)).trans (if_pos (continuationAt_iff.mp hcont))

variable (hcont : continuationAt s (windowOffset addr) = false)
include hcont

/-- Step 3 (R174). -/
theorem peekTree_of_jumpPattern (hfast : fastFetchOn s = true) (hjump : jumpPatternAt s (windowOffset addr) = true) :
    peekTree addr now s = triggerJump (windowOffset addr) s := by
  unfold peekTree
  rw [if_neg (Bool.eq_false_iff.mp hlock), if_neg (mt continuationAt_iff.mpr (Bool.eq_false_iff.mp hcont)),
    if_pos ⟨hfast, jumpPatternAt_iff.mp hjump⟩]
  rfl

variable (hjump : (fastFetchOn s && jumpPatternAt s (windowOffset addr)) = false)
include hjump

/-- Steps 4 and 5 decide between a captured operand and the plain read (R175, R176). -/
theorem peekTree_of_no_jump : peekTree addr now s =
    if fastFetchOn s ∧ (windowOffset addr).setWidth 16 = s.ldaOperandAddr ∧ romByte s (windowOffset addr) ≤ 0x22 then
      treeCapture (romByte s (windowOffset addr)) now (clearLda (clearJump s))
    else treeTail (windowOffset addr) (romByte s (windowOffset addr)) (clearJump s) := by
  have hstep3 : ¬ (fastFetchOn s ∧ romByte s (windowOffset addr) = 0x4C ∧ next1 s (windowOffset addr) = 0 ∧
      next2 s (windowOffset addr) = 0) := by
    rw [← jumpPatternAt_iff, ← Bool.and_eq_true, hjump]
    exact Bool.false_ne_true
  unfold peekTree
  rw [if_neg (Bool.eq_false_iff.mp hlock), if_neg (mt continuationAt_iff.mpr (Bool.eq_false_iff.mp hcont)),
    if_neg hstep3]
  rfl

/-- Step 5: the operand is captured (R176). -/
theorem peekTree_of_capture (hfast : fastFetchOn s = true) (hlda : ldaLatchAt s (windowOffset addr) = true)
    (hrom : romByte s (windowOffset addr) ≤ 0x22) :
    peekTree addr now s = treeCapture (romByte s (windowOffset addr)) now (clearLda (clearJump s)) := by
  rw [peekTree_of_no_jump now hlock hcont hjump, if_pos ⟨hfast, of_decide_eq_true hlda, hrom⟩]

/-- No operand is captured: steps 6 to 9. -/
theorem peekTree_of_tail (h : (fastFetchOn s && ldaLatchAt s (windowOffset addr)) = false ∨
    0x22 < romByte s (windowOffset addr)) :
    peekTree addr now s = treeTail (windowOffset addr) (romByte s (windowOffset addr)) (clearJump s) := by
  rw [peekTree_of_no_jump now hlock hcont hjump, if_neg]
  rintro ⟨hfast, hlda, hrom⟩
  rcases h with h | h
  · simp [hfast, ldaLatchAt, hlda] at h
  · exact absurd hrom (BitVec.not_le.mpr h)

end

/-! ### The rows as branches of the tree (R177, R181 to R183; log 22) -/

/-- Step 7 as R190 writes it, by the offset's distance from 0xFF5. -/
theorem hotspotStep_eq_dite (a : Offset) (s : State) : hotspotStep a s =
    if h : 0xFF5 ≤ a.toNat ∧ a.toNat ≤ 0xFFB then bank ⟨a.toNat - 0xFF5, by omega⟩ s else s := by
  split_ifs with h
  · exact hotspotStep_of_some s (hotspotBank?_of_le h.1 h.2)
  · exact hotspotStep_of_none s (hotspotBank?_eq_none h)

/-- PASS runs steps 4, 6, 7, 8 and 9. -/
theorem exec_pass_eq_treeTail (rom : Byte) (a : Offset) (s : State) :
    exec (.pass rom a) s = .next (treeTail a rom (clearJump s)) := by
  change Host.Outcome.next (answer (.byte rom) (opcodeStep a rom (hotspotStep a (clearLda (clearJump s))))) = _
  rw [hotspotStep_eq_dite]
  simp only [opcodeStep, Bool.and_eq_true, decide_eq_true_eq]
  rfl

/-- Steps 6 to 9 as one record. -/
theorem treeTail_clearJump_eq (a : Offset) (rom : Byte) (s : State) : treeTail a rom (clearJump s) =
    { s with
      currentBank := (hotspotBank? a).elim s.currentBank fun n => if s.bankLocked then s.currentBank else n
      jmpOperandAddr := 0
      ldaOperandAddr := if fastFetchOn s = true ∧ rom = 0xA9 then BitVec.ofNat 16 (a.toNat + 1) else 0
      result := .byte rom } :=
  Host.Outcome.next.inj ((exec_pass_eq_treeTail rom a s).symm.trans (exec_pass_eq rom a s))

/-- LDA.IMM goes the way of PASS: step 8 arms the latch (R181). -/
theorem exec_ldaImm_eq_pass {a : Offset} {s : State} (hfast : fastFetchOn s = true) (hrom : romByte s a = 0xA9) :
    exec (.ldaImm a) s = exec (.pass (romByte s a) a) s := by
  rw [exec_ldaImm_eq, exec_pass_eq, if_pos ⟨hfast, hrom⟩, offset_succ_eq_ofNat]

/-- So does an unlocked plain read: step 8 leaves the latch idle (R183). -/
theorem exec_romread_eq_pass {a : Offset} {s : State} (hlock : s.bankLocked = false) (hhot : hotspotBank? a = none)
    (hA9 : (fastFetchOn s && decide (romByte s a = 0xA9)) = false) :
    exec (.romread a) s = exec (.pass (romByte s a) a) s := by
  have hidle : ¬ (fastFetchOn s = true ∧ romByte s a = 0xA9) := by simpa using hA9
  rw [romreadReturnsTheRomByte, exec_pass_eq, if_neg hidle, hhot, hlock]
  rfl

/-- A HOST_READ row of an unlocked Peek, a hotspot or not, is PASS with the ROM byte (R182, R183). -/
theorem exec_decodeHostRead_eq_pass {a : Offset} {s : State} (hlock : s.bankLocked = false)
    (hA9 : (fastFetchOn s && decide (romByte s a = 0xA9)) = false) :
    exec (decodeHostRead a) s = exec (.pass (romByte s a) a) s := by
  cases hhot : hotspotBank? a with
  | none => rw [decodeHostRead_of_none hhot, exec_romread_eq_pass hlock hhot hA9]
  | some n =>
    have ha : BitVec.ofNat 12 (0xFF5 + n.val) = a := by
      rw [← hotspotBank?_some hhot, BitVec.ofNat_toNat, BitVec.setWidth_eq]
    rw [decodeHostRead_of_some hhot, exec_bankReadRow_eq_pass, ha]

/-- The captured operand of a stream is `read_stream` (R177). -/
theorem treeCapture_of_stream {rom : Byte} {i : Fin 34} (now : Cycles) (s : State) (h : rom.toNat = i.val) :
    treeCapture rom now s = readStream i s := by
  have hi : (⟨rom.toNat, h ▸ i.isLt⟩ : Fin 34) = i := Fin.ext h
  rw [treeCapture, dif_pos (h ▸ i.isLt), hi, readStream_eq]

/-- The FF_OPERAND rows up to 0x22 capture the operand (R177, R190). -/
theorem exec_decodeOperand_of_le {rom : Byte} (a : Offset) (now : Cycles) (s : State) (h : rom ≤ 0x22) :
    exec (decodeOperand rom a now) s = .next (treeCapture rom now (clearLda (clearJump s))) := by
  by_cases hstream : rom.toNat < 34
  · rw [decodeOperand, dif_pos hstream, exec_streamRead, treeCapture_of_stream (i := ⟨rom.toNat, hstream⟩) now _ rfl]
    rfl
  · have hsample : rom = 0x22 := BitVec.eq_of_toNat_eq (le_antisymm h (not_lt.mp hstream))
    rw [decodeOperand, treeCapture, dif_neg hstream, dif_neg hstream, if_pos hsample]
    rfl

/-- Whichever row a Peek decodes to, its meaning is the tree's answer: the rows are taken in the tree's order, and the
last three kinds go the way of PASS. -/
theorem exec_peekRow (s : State) (addr : Word16) (now : Cycles) :
    exec (peekRow s (windowOffset addr) now) s = .next (peekTree addr now s) := by
  unfold peekRow
  split_ifs with hlock hcont hjump hlda hA9
  · rw [peekTree_of_locked addr now hlock]
    exact congrArg (fun u => Host.Outcome.next (answer _ u)) (if_pos hlock)
  all_goals simp only [Bool.not_eq_true] at *
  · rw [peekTree_of_continuation now hlock hcont]
    rfl
  · rw [Bool.and_eq_true] at hjump
    rw [peekTree_of_jumpPattern now hlock hcont hjump.1 hjump.2]
    rfl
  · by_cases hrom : romByte s (windowOffset addr) ≤ 0x22
    · rw [Bool.and_eq_true] at hlda
      rw [exec_decodeOperand_of_le _ now s hrom, peekTree_of_capture now hlock hcont hjump hlda.1 hlda.2 hrom]
    · have hgt := BitVec.not_le.mp hrom
      rw [decodeOperand_of_gt _ now hgt, exec_pass_eq_treeTail, peekTree_of_tail now hlock hcont hjump (.inr hgt)]
  · rw [Bool.and_eq_true, decide_eq_true_eq] at hA9
    rw [exec_ldaImm_eq_pass hA9.1 hA9.2, exec_pass_eq_treeTail, peekTree_of_tail now hlock hcont hjump (.inl hlda)]
  · rw [exec_decodeHostRead_eq_pass hlock hA9, exec_pass_eq_treeTail,
      peekTree_of_tail now hlock hcont hjump (.inl hlda)]

/-- Settles O3, from the row a Peek decodes to. -/
theorem peekStepIsTheReadTree : Obligations.PeekStepIsTheReadTree := fun _ addr now _ hnext =>
  (step_hostRow hnext).trans (exec_peekRow _ addr now)

end Sys2Proof.Machine
end

section
/-! ### What a Peek's row does and when it is decoded: the two jump rows, the locked and the plain read -/

namespace Sys2Proof.Machine

/-- A byte of the current bank by its image address (R12, R165). -/
theorem romByte_windowOffset (s : State) (addr : Word16) : romByte s (windowOffset addr) =
    readByte s.image (4096 + (s.currentBank.val * 4096 + addr.toNat % 4096)) := by
  rw [romByte, progByte, progIndex, windowOffset_toNat]

/-- Settles O48: step 1 of the tree. -/
theorem lockedPeekChangesNothing : Obligations.LockedPeekChangesNothing := by
  intro s addr now rest hnext hlock
  rw [peekStepIsTheReadTree s addr now rest hnext, peekTree_of_locked (s := takeHost rest s) addr now hlock,
    romByte_windowOffset]
  rfl

theorem fastFetchOn_eq_false {s : State} (h : s.mode.toNat % 16 ≠ 0) : fastFetchOn s = false := by
  have hmod : (s.mode &&& 0x0F).toNat = s.mode.toNat % 16 := by
    rw [BitVec.toNat_and]
    exact Nat.and_two_pow_sub_one_eq_mod s.mode.toNat 4
  refine decide_eq_false fun hzero => h ?_
  rw [← hmod, hzero]
  rfl

/-- With no jump pending no offset is a continuation (R173). -/
theorem continuationAt_of_idle {s : State} (a : Offset) (h : s.fastJumpActive = 0) : continuationAt s a = false := by
  simp [continuationAt, h]

/-- Settles O49: with fast-fetch off only the tail of the tree is left, and its step 8 leaves the latch idle. -/
theorem plainPeekWithFastFetchOff : Obligations.PlainPeekWithFastFetchOff := by
  intro s addr now rest hnext hlock hmode hcount
  have hfast : fastFetchOn (takeHost rest s) = false := fastFetchOn_eq_false hmode
  have hcont := continuationAt_of_idle (s := takeHost rest s) (windowOffset addr) hcount
  rw [peekStepIsTheReadTree s addr now rest hnext,
    peekTree_of_tail (s := takeHost rest s) now hlock hcont (by rw [hfast]; rfl) (.inl (by rw [hfast]; rfl)),
    treeTail_clearJump_eq,
    if_neg (by simp [hfast]), romByte_windowOffset, takeHost_bankLocked, hlock]
  rfl

/-- JMP.FAST's row: the jump pattern outside a continuation (R172, R174). -/
theorem peekRow_of_jumpPattern {s : State} {a : Offset} (now : Cycles) (hlock : s.bankLocked = false)
    (hcont : continuationAt s a = false) (hfast : fastFetchOn s = true) (hjump : jumpPatternAt s a = true) :
    peekRow s a now = .jmpFast a := by
  simp [peekRow, hlock, hcont, hfast, hjump]

/-- Settles O19, from step 3 as one record and the row of a Peek of a jump pattern. -/
theorem jumpTriggerArmsTheFastJump : Obligations.JumpTriggerArmsTheFastJump := by
  refine ⟨fun a s => ?effect, fun s addr now hlock hcont hfast hrom h1 h2 => ?decodes⟩
  case effect => rw [← offset_succ_eq_ofNat]; rfl
  case decodes =>
    rw [decode_hostPacket, hostRow,
      peekRow_of_jumpPattern now hlock hcont hfast (jumpPatternAt_iff.mpr ⟨hrom, h1, h2⟩)]

/-- JMP.CONT's row: a continuation, whatever the mode (R173). -/
theorem peekRow_of_continuation {s : State} {a : Offset} (now : Cycles) (hlock : s.bankLocked = false)
    (hcont : continuationAt s a = true) : peekRow s a now = .jmpCont a := by
  simp [peekRow, hlock, hcont]

/-- Settles O20, from step 2 as an equation: `set_ptr(33)` writes one word of RAM. -/
theorem jumpContinuationServesStream33 : Obligations.JumpContinuationServesStream33 := by
  refine ⟨fun a s => ⟨_, congrArg Host.Outcome.next (continueJump_eq s), ?record, ?pointer, ?memory⟩,
    fun s addr now hlock hcount haddr => ?decodes⟩
  case record => rw [displayByte_streamIndex]; rfl
  case pointer => rw [getPtr_answer, getPtr_setPtr_same]
  case memory =>
    intro k hk
    rw [answer_ram]
    exact setPtr_ramSameOutside 33 _ _ k hk
  case decodes =>
    rw [decode_hostPacket, hostRow, peekRow_of_continuation now hlock (continuationAt_iff.mpr ⟨hcount, haddr⟩)]

end Sys2Proof.Machine
end

section
/-! ### The look-ahead (R174, R185, D9) -/

namespace Sys2Proof.Machine

/-- Inside program ROM the look-ahead is linear (R185). -/
theorem lookAhead_of_lt (s : State) {k : Nat} (site : Nat) (h : k < Config.programSize) :
    lookAhead s k site = progByte s k := if_pos h

/-- Below bank 6 the look-ahead past the window's end is byte `j` of the next bank (R185, D9). -/
theorem lookAhead_of_nextBank {s : State} {k j : Nat} (site : Nat) (hbank : s.currentBank.val < 6) (hj : j < 4096)
    (hk : k = (s.currentBank.val + 1) * 4096 + j) :
    lookAhead s k site = readByte s.image (4096 + (s.currentBank.val + 1) * 4096 + j) := by
  have hin : k < 28672 := by omega
  rw [lookAhead_of_lt s site hin, progByte, hk, Nat.add_assoc]

/-- Settles O53: the two offsets lie one and two bytes before the end of the window. -/
theorem lookAheadRunsIntoTheNextBank : Obligations.LookAheadRunsIntoTheNextBank := by
  intro s hbank
  have hFFE : progIndex s 0xFFE = s.currentBank.val * 4096 + 0xFFE := rfl
  have hFFF : progIndex s 0xFFF = s.currentBank.val * 4096 + 0xFFF := rfl
  exact ⟨lookAhead_of_nextBank (j := 0) 1 hbank (by decide) (by omega),
    lookAhead_of_nextBank (j := 0) 0 hbank (by decide) (by omega),
    lookAhead_of_nextBank (j := 1) 1 hbank (by decide) (by omega)⟩

/-- An address further on in the same window (R14). -/
theorem windowOffset_add {addr k : Word16} (h : (windowOffset addr).toNat + k.toNat < 4096) :
    (windowOffset (addr + k)).toNat = (windowOffset addr).toNat + k.toNat := by
  rw [windowOffset_toNat] at h
  rw [windowOffset_toNat, windowOffset_toNat, BitVec.toNat_add]
  omega

theorem romByte_windowOffset_add (s : State) {addr k : Word16} (h : (windowOffset addr).toNat + k.toNat < 4096) :
    romByte s (windowOffset (addr + k)) = progByte s (progIndex s (windowOffset addr) + k.toNat) := by
  rw [romByte, progIndex, windowOffset_add h, progIndex, Nat.add_assoc]

theorem progIndex_add_lt (s : State) {a : Offset} {k : Nat} (h : a.toNat + k < 4096) :
    progIndex s a + k < Config.programSize := by
  have := s.currentBank.isLt
  unfold progIndex Config.programSize Config.bankSize
  omega

/-- Inside a bank the look-ahead bytes are the ROM bytes at the next offsets (R174). -/
theorem next1_windowOffset (s : State) {addr : Word16} (h : (windowOffset addr).toNat < 0xFFF) :
    next1 s (windowOffset addr) = romByte s (windowOffset (addr + 1)) := by
  have hin : (windowOffset addr).toNat + 1 < 4096 := by omega
  rw [romByte_windowOffset_add s hin]
  exact lookAhead_of_lt s 0 (progIndex_add_lt s hin)

theorem next2_windowOffset (s : State) {addr : Word16} (h : (windowOffset addr).toNat ≤ 0xFFD) :
    next2 s (windowOffset addr) = romByte s (windowOffset (addr + 2)) := by
  have hin : (windowOffset addr).toNat + 2 < 4096 := by omega
  rw [romByte_windowOffset_add s hin]
  exact lookAhead_of_lt s 1 (progIndex_add_lt s hin)

/-- The latch armed at an offset names the next one (R174, R181). -/
theorem setWidth_windowOffset_add {addr k : Word16} (h : (windowOffset addr).toNat + k.toNat < 4096) :
    (windowOffset (addr + k)).setWidth 16 = (windowOffset addr).setWidth 16 + k := by
  apply BitVec.eq_of_toNat_eq
  rw [BitVec.toNat_add, BitVec.toNat_setWidth, BitVec.toNat_setWidth, windowOffset_add h]
  omega

end Sys2Proof.Machine
end

section
/-! ### The two intercepted sequences of reads (R176, R181, R187, R277) -/

namespace Sys2Proof.Machine

/-- A byte that is not `4C` begins no jump pattern (R174). -/
theorem jumpPatternAt_of_ne {s : State} {a : Offset} (h : romByte s a ≠ 0x4C) : jumpPatternAt s a = false := by
  rw [jumpPatternAt, decide_eq_false h]
  rfl

/-- Queue and draw number play no part in the ROM byte. -/
@[simp] theorem romByte_takeHost (rest : List HostRequest) (s : State) (a : Offset) :
    romByte (takeHost rest s) a = romByte s a := rfl

/-- The first read of the pair: off the hotspots an `A9` is answered as it is and arms the latch (R181). -/
theorem step_peek_A9 {s : State} {addr : Word16} {now : Cycles} {rest : List HostRequest}
    (hnext : HostNext s (.peek addr now) rest) (hlock : s.bankLocked = false) (hfast : fastFetchOn s = true)
    (hcont : continuationAt s (windowOffset addr) = false) (hhot : isHotspot (windowOffset addr) = false)
    (hrom : romByte s (windowOffset addr) = 0xA9) :
    step s = .next { takeHost rest s with
      jmpOperandAddr := 0, ldaOperandAddr := (windowOffset addr).setWidth 16 + 1, result := .byte 0xA9 } := by
  have hjump : jumpPatternAt (takeHost rest s) (windowOffset addr) = false :=
    jumpPatternAt_of_ne fun h => nomatch hrom.symm.trans h
  have htail : 0x22 < romByte (takeHost rest s) (windowOffset addr) := hrom ▸ (by decide : (0x22 : Byte) < 0xA9)
  rw [peekStepIsTheReadTree s addr now rest hnext,
    peekTree_of_tail (s := takeHost rest s) now hlock hcont (by rw [hjump, Bool.and_false]) (.inr htail),
    treeTail_clearJump_eq, hotspotBank?_eq_none_of_isHotspot_eq_false hhot, if_pos ⟨hfast, hrom⟩,
    offset_succ_eq_ofNat, romByte_takeHost, hrom]
  rfl

/-- The second read of the pair: at the armed latch a byte below 34 is a stream's number (R176, R177). -/
theorem step_peek_operand {s : State} {addr : Word16} {now : Cycles} {rest : List HostRequest} {i : Fin 34}
    (hnext : HostNext s (.peek addr now) rest) (hlock : s.bankLocked = false) (hfast : fastFetchOn s = true)
    (hcont : continuationAt s (windowOffset addr) = false) (hlda : ldaLatchAt s (windowOffset addr) = true)
    (hrom : (romByte s (windowOffset addr)).toNat = i.val) :
    step s = .next (readStream i (clearLda (clearJump (takeHost rest s)))) := by
  have hle : (romByte s (windowOffset addr)).toNat ≤ 0x22 := by omega
  have hjump : jumpPatternAt (takeHost rest s) (windowOffset addr) = false :=
    jumpPatternAt_of_ne fun h => by
      have : (romByte s (windowOffset addr)).toNat = 0x4C := congrArg BitVec.toNat h
      omega
  rw [peekStepIsTheReadTree s addr now rest hnext,
    peekTree_of_capture (s := takeHost rest s) now hlock hcont (by rw [hjump, Bool.and_false]) hfast hlda hle,
    romByte_takeHost, treeCapture_of_stream now _ hrom]

/-- Settles O51, from its two reads: the first leaves RAM alone, the second is `read_stream(i)`. -/
theorem loadImmediatePairReadsAStream : Obligations.LoadImmediatePairReadsAStream := by
  intro s addr now now' rest i hnext hlock hfast hcount hend hhot hopcode hoperand
  have hlatch : (windowOffset (addr + 1)).setWidth 16 = (windowOffset addr).setWidth 16 + 1 :=
    setWidth_windowOffset_add (k := 1) (Nat.succ_lt_succ hend)
  refine ⟨_, _, step_peek_A9 hnext hlock hfast (continuationAt_of_idle _ hcount) hhot hopcode, rfl,
    step_peek_operand (i := i) (addr := addr + 1) (now := now') (rest := rest) ⟨hnext.1, rfl⟩ hlock hfast
      (continuationAt_of_idle _ hcount) (decide_eq_true hlatch) hoperand, rfl, ?_, rfl, rfl⟩
  rw [readStream_eq, getPtr_answer, getPtr_setPtr_same]
  rfl

/-- The first read of the jump: `4C` is answered as it is and the latch armed for two bytes (R174). -/
theorem step_peek_4C {s : State} {addr : Word16} {now : Cycles} {rest : List HostRequest}
    (hnext : HostNext s (.peek addr now) rest) (hlock : s.bankLocked = false) (hfast : fastFetchOn s = true)
    (hcont : continuationAt s (windowOffset addr) = false) (hend : (windowOffset addr).toNat ≤ 0xFFD)
    (hrom : romByte s (windowOffset addr) = 0x4C) (hrom1 : romByte s (windowOffset (addr + 1)) = 0)
    (hrom2 : romByte s (windowOffset (addr + 2)) = 0) :
    step s = .next (triggerJump (windowOffset addr) (takeHost rest s)) := by
  have hjump : jumpPatternAt (takeHost rest s) (windowOffset addr) = true :=
    jumpPatternAt_iff.mpr ⟨hrom, (next1_windowOffset _ (by omega)).trans hrom1,
      (next2_windowOffset _ hend).trans hrom2⟩
  rw [peekStepIsTheReadTree s addr now rest hnext,
    peekTree_of_jumpPattern (s := takeHost rest s) now hlock hcont hfast hjump]

/-- What a read served by a pending jump answers and leaves, with `rest` still to come (R173). -/
structure Continued (rest : List HostRequest) (s t : State) : Prop where
  result : t.result = .byte (displayByte s (streamIndex (getPtr s 33)))
  ptr : getPtr t 33 = getPtr s 33 + 0x00100000
  display : ∀ k, displayByte t k = displayByte s k
  fastJumpActive : t.fastJumpActive = s.fastJumpActive - 1
  jmpOperandAddr : t.jmpOperandAddr = s.jmpOperandAddr + 1
  ldaOperandAddr : t.ldaOperandAddr = s.ldaOperandAddr
  bankLocked : t.bankLocked = s.bankLocked
  sequencer : t.sequencer = s.sequencer
  hostQueue : t.hostQueue = rest

@[simp] theorem displayByte_answer (r : Result) (s : State) (k : Nat) :
    displayByte (answer r s) k = displayByte s k := rfl

theorem continueJump_continued (rest : List HostRequest) (s : State) :
    Continued rest s (continueJump (takeHost rest s)) where
  result := by rw [continueJump_eq]; rfl
  ptr := by rw [continueJump_eq, getPtr_answer, getPtr_setPtr_same, getPtr_congr 33 (takeHost_ram rest s)]
  display k := by
    rw [continueJump_eq, displayByte_answer, displayByte_setPtr]
    rfl
  fastJumpActive := rfl
  jmpOperandAddr := rfl
  ldaOperandAddr := rfl
  bankLocked := rfl
  sequencer := rfl
  hostQueue := rfl

/-- A read at a pending jump's address is the continuation, whatever the mode (R173). -/
theorem step_peek_continuation {s : State} {addr : Word16} {now : Cycles} {rest : List HostRequest}
    (hnext : HostNext s (.peek addr now) rest) (hlock : s.bankLocked = false) (hcount : s.fastJumpActive ≠ 0)
    (haddr : (windowOffset addr).setWidth 16 = s.jmpOperandAddr) :
    ∃ t, step s = .next t ∧ Continued rest s t := by
  have hcont : continuationAt (takeHost rest s) (windowOffset addr) = true := continuationAt_iff.mpr ⟨hcount, haddr⟩
  refine ⟨_, ?_, continueJump_continued rest s⟩
  rw [peekStepIsTheReadTree s addr now rest hnext,
    peekTree_of_continuation (s := takeHost rest s) now hlock hcont]

/-- With the count at 2 the reads at the jump's address and at the one after it are served from stream 33, each
moving its pointer by one byte, and the jump is disarmed (R173, R187). -/
theorem step_two_continuations {s : State} {addr addr' : Word16} {now now' : Cycles} {rest : List HostRequest}
    (hnext : HostNext s (.peek addr now) (.peek addr' now' :: rest)) (hlock : s.bankLocked = false)
    (hcount : s.fastJumpActive = 2) (haddr : (windowOffset addr).setWidth 16 = s.jmpOperandAddr)
    (haddr' : (windowOffset addr').setWidth 16 = s.jmpOperandAddr + 1) :
    ∃ t u, step s = .next t ∧ t.result = .byte (displayByte s (streamIndex (getPtr s 33))) ∧ step t = .next u ∧
      u.result = .byte (displayByte s (streamIndex (getPtr s 33 + 0x00100000))) ∧ u.fastJumpActive = 0 ∧
      getPtr u 33 = getPtr s 33 + 0x00200000 ∧ u.ldaOperandAddr = s.ldaOperandAddr := by
  obtain ⟨t, hstep, ht⟩ := step_peek_continuation hnext hlock (by rw [hcount]; decide) haddr
  obtain ⟨u, hstep', hu⟩ := step_peek_continuation ⟨ht.sequencer.trans hnext.1, ht.hostQueue⟩
    (ht.bankLocked.trans hlock) (by rw [ht.fastJumpActive, hcount]; decide) (haddr'.trans ht.jmpOperandAddr.symm)
  have htwo : (0x00100000 + 0x00100000 : Word32) = 0x00200000 := by decide
  refine ⟨t, u, hstep, ht.result, hstep', ?data, ?count, ?pointer, hu.ldaOperandAddr.trans ht.ldaOperandAddr⟩
  case data => rw [hu.result, ht.display, ht.ptr]
  case count => rw [hu.fastJumpActive, ht.fastJumpActive, hcount]; rfl
  case pointer => rw [hu.ptr, ht.ptr, BitVec.add_assoc, htwo]

/-- Settles O52: the trigger arms the count and the address for the two continuations, and RAM is as before. -/
theorem fastJumpServesExactlyTwoBytes : Obligations.FastJumpServesExactlyTwoBytes := by
  intro s addr n0 n1 n2 rest hnext hlock hfast hcont hend hrom hrom1 hrom2
  have haddr1 : (windowOffset (addr + 1)).setWidth 16 = (windowOffset addr).setWidth 16 + 1 :=
    setWidth_windowOffset_add (k := 1) (Nat.lt_of_le_of_lt (Nat.add_le_add_right hend 1) (by decide))
  have haddr2 : (windowOffset (addr + 2)).setWidth 16 = (windowOffset addr).setWidth 16 + 1 + 1 := by
    rw [BitVec.add_assoc]
    exact setWidth_windowOffset_add (k := 2) (Nat.lt_of_le_of_lt (Nat.add_le_add_right hend 2) (by decide))
  obtain ⟨s2, s3, hstep2, hdata2, hstep3, hdata3, hcount, hptr, hlda⟩ :=
    step_two_continuations (s := triggerJump (windowOffset addr) (takeHost _ s)) ⟨hnext.1, rfl⟩ hlock rfl haddr1
      haddr2
  exact ⟨_, s2, s3, step_peek_4C hnext hlock hfast hcont hend hrom hrom1 hrom2, congrArg Result.byte hrom, hstep2,
    hdata2, hstep3, hdata3, hcount, hptr, hlda⟩

end Sys2Proof.Machine
end

section
/-! PROOFS, family 44_write_ports: what each write port does, and that a Poke neither reads nor touches the read
decoder's side of the device (R200 to R209). -/

namespace Sys2Proof.Machine

/-! ### The rows that a Poke decodes to (R200, R205) -/

/-- The rows of HOST_WRITE and CALLFN_ARG: the ports, the bank writes by their number, the ignored writes, and the
rows that a Poke to CALLFN is decoded to in place of CALLFN. -/
inductive IsPokeRow : Instr → Prop
  | dswrite (val : Byte) : IsPokeRow (.dswrite val)
  | dsptr (val : Byte) : IsPokeRow (.dsptr val)
  | setmode (val : Byte) : IsPokeRow (.setmode val)
  | bankWrite (n : Fin 7) (val : Byte) : IsPokeRow (bankWriteRow n val)
  | writeIgnored (a : Offset) (val : Byte) : IsPokeRow (.writeIgnored a val)
  | callfnRun254 (now : Cycles) : IsPokeRow (.callfnRun254 now)
  | callfnRun255 (now : Cycles) : IsPokeRow (.callfnRun255 now)
  | callfnNop (val : Byte) : IsPokeRow (.callfnNop val)

theorem decodeCallfnArg_isPokeRow (val : Byte) (now : Cycles) : IsPokeRow (decodeCallfnArg val now) := by
  unfold decodeCallfnArg
  split_ifs
  · exact .callfnRun254 now
  · exact .callfnRun255 now
  · exact .callfnNop val

theorem pokeRow_isPokeRow (a : Offset) (val : Byte) (now : Cycles) : IsPokeRow (pokeRow a val now) := by
  unfold pokeRow decodeHostWrite
  split_ifs
  · exact decodeCallfnArg_isPokeRow val now
  · exact .dswrite val
  · exact .dsptr val
  · exact .setmode val
  · split
    · exact .bankWrite _ val
    · exact .writeIgnored a val

/-! ### What a Poke leaves alone (R201) -/

/-- Image, latches, audio clock and music registers are as before, and nothing is answered. -/
structure PokeFrame (s t : State) : Prop where
  image : t.image = s.image
  latches : LatchesSame s t
  clock : AudioClockSame s t
  music : MusicSame s t
  result : t.result = .nothing

theorem answer_nothing_pokeFrame (s : State) : PokeFrame s (answer .nothing s) :=
  ⟨rfl, ⟨rfl, rfl, rfl⟩, ⟨rfl, rfl, rfl⟩, ⟨rfl, rfl, rfl⟩, rfl⟩

theorem armRun_pokeFrame {now : Cycles} {s t : State} (h : armRun now s = .next t) : PokeFrame s t := by
  obtain ⟨-, -, rfl⟩ := armRun_next h
  exact { answer_nothing_pokeFrame s with }

theorem IsPokeRow.exec_frame {i : Instr} {s t : State} (hi : IsPokeRow i) (h : exec i s = .next t) :
    PokeFrame s t := by
  cases hi with
  | dswrite val => cases h; exact { answer_nothing_pokeFrame s with }
  | dsptr val => cases h; exact { answer_nothing_pokeFrame s with }
  | setmode val => cases h; exact { answer_nothing_pokeFrame s with }
  | bankWrite n val =>
    rw [exec_bankWriteRow, bank_eq] at h
    cases h; exact { answer_nothing_pokeFrame s with }
  | writeIgnored a val => cases h; exact answer_nothing_pokeFrame s
  | callfnRun254 now => exact armRun_pokeFrame h
  | callfnRun255 now => exact armRun_pokeFrame h
  | callfnNop val => cases h; exact answer_nothing_pokeFrame s

/-! ### What a Poke does not read (R201)

The read side of the device: the image and the fast-fetch latches, which the read tree goes by (R172). -/

/-- The state with the read side replaced by any other. -/
def withReadSide (image : Memory) (lda jmp : Word16) (count : Byte) (s : State) : State :=
  { s with image := image, ldaOperandAddr := lda, jmpOperandAddr := jmp, fastJumpActive := count }

/-- A map of states lifted to outcomes: stops are as they were. -/
def mapNext (f : State → State) : Step → Step
  | .next t => .next (f t)
  | .fault r => .fault r
  | .refused r => .refused r

section
variable (image : Memory) (lda jmp : Word16) (count : Byte)

/-- The budget of a run and whether it fits an `i32` come from `now` and `arm_cycles` (R222). -/
theorem armRun_withReadSide (now : Cycles) (s : State) :
    armRun now (withReadSide image lda jmp count s) = mapNext (withReadSide image lda jmp count) (armRun now s) := by
  have hbudget : armBudget now (withReadSide image lda jmp count s) = armBudget now s := rfl
  simp only [armRun, hbudget]
  split_ifs
  · rfl
  · rfl

theorem IsPokeRow.exec_withReadSide {i : Instr} (hi : IsPokeRow i) (s : State) :
    exec i (withReadSide image lda jmp count s) = mapNext (withReadSide image lda jmp count) (exec i s) := by
  cases hi with
  | dswrite val => rfl
  | dsptr val => rfl
  | setmode val => rfl
  | bankWrite n val => rw [exec_bankWriteRow, exec_bankWriteRow, bank_eq, bank_eq]; rfl
  | writeIgnored a val => rfl
  | callfnRun254 now => exact armRun_withReadSide image lda jmp count now s
  | callfnRun255 now => exact armRun_withReadSide image lda jmp count now s
  | callfnNop val => rfl

/-- A Poke's whole step depends on the read side no more than its row does: the host's queue and the draw number lie
outside it. -/
theorem step_poke_withReadSide {s : State} {addr : Word16} {val : Byte} {now : Cycles} {rest : List HostRequest}
    (h : HostNext s (.poke addr val now) rest) :
    step (withReadSide image lda jmp count s) = mapNext (withReadSide image lda jmp count) (step s) := by
  have hreplaced : HostNext (withReadSide image lda jmp count s) (.poke addr val now) rest := h
  rw [step_hostRow h, step_hostRow hreplaced]
  exact (pokeRow_isPokeRow (windowOffset addr) val now).exec_withReadSide image lda jmp count (takeHost rest s)

end

/-- Settles O6, over the rows of a Poke: the frame of each, and that each commutes with replacing the read side. -/
theorem pokeNeitherReadsRomNorLatches : Obligations.PokeNeitherReadsRomNorLatches := by
  intro s addr val now rest hnext
  refine ⟨fun t hstep => ?frame, fun image lda jmp count => ?independent⟩
  case frame =>
    rw [step_hostRow hnext] at hstep
    have hframe := (pokeRow_isPokeRow (windowOffset addr) val now).exec_frame hstep
    exact ⟨hframe.image, hframe.latches, hframe.clock, hframe.music, hframe.result⟩
  case independent =>
    refine (step_poke_withReadSide image lda jmp count hnext).trans ?_
    cases step s <;> rfl

end Sys2Proof.Machine
end

section
/-! ### DSWRITE and DSPTR (R202, R203, R208) -/

namespace Sys2Proof.Machine

/-- `p[31:20]` as a number (R25). -/
theorem streamIndex_eq_div (p : Word32) : streamIndex p = p.toNat / 1048576 := by
  rw [streamIndex, BitVec.toNat_ushiftRight, Nat.shiftRight_eq_div_pow]

/-- DSWRITE, its display address as a number (R12, R202). -/
theorem exec_dswrite_eq (val : Byte) (s : State) :
    exec (.dswrite val) s = .next (answer .nothing (setPtr 32 (getPtr s 32 + 0x00100000)
      { s with ram := writeByte s.ram (0x0800 + (getPtr s 32).toNat / 1048576) val })) := by
  rw [← streamIndex_eq_div]
  rfl

/-- Settles O21: display RAM lies above the pointer's word, so neither write touches the other. -/
theorem dswriteStoresThroughCommstream : Obligations.DswriteStoresThroughCommstream := by
  intro val s
  refine ⟨_, exec_dswrite_eq val s, rfl, ?stored, ?pointer, fun k hk hptr => ?memory⟩
  case stored =>
    rw [answer_ram, setPtr_ramSameOutside 32 _ _ _ (show ¬ (0x0760 ≤ _ ∧ _ < 0x0764) by omega),
      readByte_writeByte_same]
  case pointer => rw [getPtr_answer, getPtr_setPtr_same]
  case memory => rw [answer_ram, setPtr_ramSameOutside 32 _ _ k hptr, readByte_writeByte_other s.ram val hk]

/-- A mask that keeps the bits from `n` up, as a number. -/
theorem toNat_and_allOnes_shiftLeft {w : Nat} (x : BitVec w) (n : Nat) :
    (x &&& BitVec.allOnes w <<< n).toNat = x.toNat / 2 ^ n * 2 ^ n := by
  rw [← BitVec.shiftLeft_ushiftRight, BitVec.toNat_shiftLeft, BitVec.toNat_ushiftRight, Nat.shiftRight_eq_div_pow,
    Nat.shiftLeft_eq]
  exact Nat.mod_eq_of_lt (lt_of_le_of_lt (Nat.div_mul_le_self _ _) x.isLt)

/-- DSPTR's pointer in bits: old `p[23:20]` on top, then `val`, then twenty zeros (R203). -/
theorem toNat_shiftedPtr (p : Word32) (val : Byte) :
    (shiftedPtr p val).toNat = p.toNat / 1048576 % 16 * 268435456 + val.toNat * 1048576 := by
  have hp := p.isLt
  have hval := val.isLt
  have hhigh : ((p <<< 8) &&& (0xF0000000 : Word32)).toNat = (p.toNat / 1048576 % 16) <<< 28 := by
    change ((p <<< 8) &&& BitVec.allOnes 32 <<< 28).toNat = _
    rw [toNat_and_allOnes_shiftLeft, BitVec.toNat_shiftLeft, Nat.shiftLeft_eq, Nat.shiftLeft_eq]
    omega
  have hlow : (val.setWidth 32 <<< 20).toNat = val.toNat * 1048576 := by
    rw [BitVec.toNat_shiftLeft, BitVec.toNat_setWidth, Nat.shiftLeft_eq]
    omega
  rw [shiftedPtr, BitVec.toNat_or, hhigh, hlow, ← Nat.shiftLeft_add_eq_or_of_lt (by omega), Nat.shiftLeft_eq]

theorem exec_dsptr_eq (val : Byte) (s : State) :
    exec (.dsptr val) s = .next (answer .nothing (setPtr 32 (shiftedPtr (getPtr s 32) val) s)) := rfl

/-- Settles O22, from the new pointer's bits and `set_ptr`'s frame. -/
theorem dsptrShiftsAByteIn : Obligations.DsptrShiftsAByteIn := by
  intro val s
  refine ⟨_, exec_dsptr_eq val s, rfl, ?pointer, setPtr_ramSameOutside 32 _ s⟩
  case pointer => rw [getPtr_answer, getPtr_setPtr_same, toNat_shiftedPtr]

/-- The pointer after a DSPTR write (R203). -/
theorem getPtr_of_exec_dsptr {val : Byte} {s t : State} (h : exec (.dsptr val) s = .next t) :
    getPtr t 32 = shiftedPtr (getPtr s 32) val := by
  cases (exec_dsptr_eq val s).symm.trans h
  rw [getPtr_answer, getPtr_setPtr_same]

/-- Settles O23: the second write keeps of the first only the low nibble of its data. -/
theorem twoDsptrWritesLoadAnIndex : Obligations.TwoDsptrWritesLoadAnIndex := by
  intro v1 v2 s s1 s2 h1 h2
  have hptr : (getPtr s2 32).toNat = v1.toNat % 16 * 268435456 + v2.toNat * 1048576 := by
    have hval := v1.isLt
    rw [getPtr_of_exec_dsptr h2, toNat_shiftedPtr, getPtr_of_exec_dsptr h1, toNat_shiftedPtr]
    omega
  refine ⟨hptr, ?index⟩
  case index => rw [streamIndex_eq_div, hptr]; omega

end Sys2Proof.Machine
end

section
/-! ### SETMODE, the ignored writes and CALLFN (R204, R205, R207) -/

namespace Sys2Proof.Machine

/-- `fast_fetch_on` is about the low nibble of the mode (R13). -/
theorem fastFetchOn_iff (s : State) : fastFetchOn s = true ↔ s.mode.toNat % 16 = 0 := by
  have hlow : (s.mode &&& 0x0F).toNat = s.mode.toNat % 16 := by
    rw [BitVec.toNat_and]
    exact Nat.and_two_pow_sub_one_eq_mod s.mode.toNat 4
  rw [fastFetchOn, decide_eq_true_eq, ← BitVec.toNat_inj, hlow]
  rfl

/-- `digital_audio_on` is about the high nibble of the mode (R13). -/
theorem digitalAudioOn_iff (s : State) : digitalAudioOn s = true ↔ s.mode.toNat / 16 = 0 := by
  have hhigh : (s.mode &&& 0xF0).toNat = s.mode.toNat / 16 * 16 := toNat_and_allOnes_shiftLeft s.mode 4
  rw [digitalAudioOn, decide_eq_true_eq, ← BitVec.toNat_inj, hhigh]
  change _ * 16 = 0 ↔ _
  omega

/-- Settles O24, from SETMODE's one assignment and the two nibbles of the mode. -/
theorem setmodeStoresAllEightBits : Obligations.SetmodeStoresAllEightBits :=
  ⟨fun _ _ => rfl, fun s => ⟨fastFetchOn_iff s, digitalAudioOn_iff s⟩⟩

/-- The offsets of R207 are those that are no write port. -/
theorem isWritePort_eq_false_iff (a : Offset) :
    isWritePort a = false ↔ a.toNat < 0xFF0 ∨ a.toNat = 0xFF4 ∨ 0xFFC ≤ a.toNat := by
  simp only [Bool.or_eq_false_iff, Bool.and_eq_false_iff, decide_eq_false_iff_not]
  omega

/-- A Poke off the write ports is ignored: CALLFN is one of them (R92, R207). -/
theorem pokeRow_of_not_writePort {a : Offset} (val : Byte) (now : Cycles) (h : isWritePort a = false) :
    pokeRow a val now = .writeIgnored a val := by
  have hcall : a ≠ 0xFF3 := by
    rintro rfl
    exact absurd h (by decide)
  rw [pokeRow, if_neg hcall, decodeHostWrite_of_not_writePort val now h]

/-- Settles O26, from the row of a Poke off the write ports. -/
theorem otherWritesAreIgnored : Obligations.OtherWritesAreIgnored := by
  refine ⟨fun a val s => rfl, fun addr val now s haddr => ?decodes⟩
  case decodes =>
    rw [decode_hostPacket, hostRow, pokeRow_of_not_writePort val now ((isWritePort_eq_false_iff _).mpr haddr)]

/-- All four forms of the request for a run are the start of a run (R205, R220, R221). -/
theorem exec_runRequest {i : Instr} {now : Cycles} (s : State)
    (h : i ∈ [Instr.callfn 254 now, Instr.callfn 255 now, Instr.callfnRun254 now, Instr.callfnRun255 now]) :
    exec i s = armRun now s := by
  obtain rfl | rfl | rfl | rfl : i = .callfn 254 now ∨ i = .callfn 255 now ∨ i = .callfnRun254 now ∨
    i = .callfnRun255 now := by simpa using h
  · exact exec_callfn_of_run now s (.inl rfl)
  · exact exec_callfn_of_run now s (.inr rfl)
  · rfl
  · rfl

/-- Settles O27, from the start of a run whose budget fits. -/
theorem callfnStartsARunOfTheElapsedCycles : Obligations.CallfnStartsARunOfTheElapsedCycles := by
  rintro now s budget rfl hlo hhi i hi
  exact (exec_runRequest s hi).trans (armRun_of_fits hlo hhi)

end Sys2Proof.Machine
end

section
/-! PROOFS, family 45_arm_bridge: the steps of a run (R223, R225, R232 to R234), the envelope it stays in, the ARM's
byte accesses (R64), the callbacks (R226 to R231) and the budget that does not fit (R222). -/

/-! ### The steps of a run that run no row (R225, R232 to R234) -/

namespace Sys2Proof.Machine

/-- The end of a run is taken off the ARM's queue and ends it (R232, R234). -/
theorem step_finish {s : State} {faulted : Bool} {rest : List ArmRequest} (h : ArmNext s (.finish faulted) rest) :
    step s = .next (armEnd faulted (takeArm rest s)) := by
  rw [step_of_armNext h, stepArm, h.2]

/-- An internal step stores the ARM's own state (R225). -/
theorem step_internal {s : State} {armState : List Byte} {rest : List ArmRequest}
    (h : ArmNext s (.internal armState) rest) :
    step s = .next (answer .nothing { takeArm rest s with armState := armState }) := by
  rw [step_of_armNext h, stepArm, h.2]

/-- A run without a further action hangs (R233, log 12). -/
theorem step_of_armQueue_nil {s : State} {budget : Int} (hseq : s.sequencer = .running budget)
    (hqueue : s.armQueue = []) : step s = .fault .armRunNeverEnds := by
  simp [step, stepArm, hseq, hqueue]

/-- Settles O38, clause by clause. -/
theorem armRunEndsOrHangs : Obligations.ArmRunEndsOrHangs :=
  ⟨fun _ _ _ => step_finish, fun _ _ _ => step_internal, fun _ _ => step_of_armQueue_nil⟩

/-! ### A callback that no row has (R98, R226) -/

theorem runPacket_of_decode_error {p : Packet} {e : DecodeError} (s : State) (h : decode p = .error e) :
    runPacket p s = .refused (.undecodable e) := by
  simp [runPacket, h]

/-- The rows of ARM_CB end at code 3 (R98). -/
theorem decodeCallback_of_gt {code : Word32} (a1 a2 : Word32) (h : 3 < code.toNat) :
    decodeCallback code a1 a2 = .error (.unknownCallbackCode code) := by
  have hne (c : Word32) (hc : c.toNat ≤ 3) : code ≠ c := by
    rintro rfl
    omega
  rw [decodeCallback, if_neg (hne 0 (by decide)), if_neg (hne 1 (by decide)), if_neg (hne 2 (by decide)),
    if_neg (hne 3 (by decide))]

/-- Settles O35: the packet decodes to no row, and the step refuses what the decoder did. -/
theorem callbackCodeAboveThreeIsRefused : Obligations.CallbackCodeAboveThreeIsRefused := by
  intro s code a1 a2 rest hnext hcode
  rw [step_callback hnext]
  exact runPacket_of_decode_error _ ((decode_callbackPacket code a1 a2).trans (decodeCallback_of_gt a1 a2 hcode))

end Sys2Proof.Machine
end

section
/-! ### The envelope of a run (R223, R225, R236) -/

namespace Sys2Proof.Machine

/-- The rows an action of the ARM decodes to: the four callbacks and the three byte accesses (R225, R226). -/
inductive IsArmRow : Instr → Prop
  | setnote (v f : Word32) : IsArmRow (.setnote v f)
  | resetwave (v : Word32) : IsArmRow (.resetwave v)
  | getwaveptr (v : Word32) : IsArmRow (.getwaveptr v)
  | setwavesize (v size : Word32) : IsArmRow (.setwavesize v size)
  | armramread (x : Word32) : IsArmRow (.armramread x)
  | armromread (x : Word32) : IsArmRow (.armromread x)
  | armramwrite (x : Word32) (val : Byte) : IsArmRow (.armramwrite x val)

theorem decodeCallback_isArmRow {code a1 a2 : Word32} {i : Instr} (h : decodeCallback code a1 a2 = .ok i) :
    IsArmRow i := by
  unfold decodeCallback at h
  split_ifs at h
  · cases h; exact .setnote a1 a2
  · cases h; exact .resetwave a1
  · cases h; exact .getwaveptr a1
  · cases h; exact .setwavesize a1 a2

/-- All that a step of a run can do when it answers a next state: end the run, make an internal step, or run a row of
the ARM; each takes one action off the ARM's queue. -/
theorem step_running_next {s t : State} {budget : Int} (hseq : s.sequencer = .running budget)
    (h : step s = .next t) :
    ∃ rest, (∃ faulted, t = armEnd faulted (takeArm rest s)) ∨
      (∃ armState, t = answer .nothing { takeArm rest s with armState := armState }) ∨
      ∃ i, IsArmRow i ∧ exec i (takeArm rest s) = .next t := by
  cases hqueue : s.armQueue with
  | nil =>
    rw [step_of_armQueue_nil hseq hqueue] at h
    cases h
  | cons r rest =>
    refine ⟨rest, ?_⟩
    have hnext : ArmNext s r rest := ⟨⟨budget, hseq⟩, hqueue⟩
    cases r with
    | callback code a1 a2 =>
      rw [step_callback hnext] at h
      obtain ⟨i, hdec, hexec⟩ := runPacket_next h
      rw [decode_callbackPacket] at hdec
      exact .inr (.inr ⟨i, decodeCallback_isArmRow hdec, hexec⟩)
    | ramRead x => exact .inr (.inr ⟨_, .armramread x, (step_ramRead hnext).symm.trans h⟩)
    | romRead x => exact .inr (.inr ⟨_, .armromread x, (step_romRead hnext).symm.trans h⟩)
    | ramWrite x val => exact .inr (.inr ⟨_, .armramwrite x val, (step_ramWrite hnext).symm.trans h⟩)
    | internal armState =>
      rw [step_internal hnext] at h
      cases h; exact .inr (.inl ⟨armState, rfl⟩)
    | finish faulted =>
      rw [step_finish hnext] at h
      cases h; exact .inl ⟨faulted, rfl⟩

/-- All that a run cannot reach is as before: image, bank, mode, latches, cycle baselines, residue, lock, parameters
and the host operations still to come. -/
structure RunEnvelope (s t : State) : Prop where
  image : t.image = s.image
  currentBank : t.currentBank = s.currentBank
  mode : t.mode = s.mode
  latches : LatchesSame s t
  clock : AudioClockSame s t
  armCycles : t.armCycles = s.armCycles
  bankLocked : t.bankLocked = s.bankLocked
  ramInit : t.ramInit = s.ramInit
  oscArith : t.oscArith = s.oscArith
  trapFatal : t.trapFatal = s.trapFatal
  hostQueue : t.hostQueue = s.hostQueue

theorem RunEnvelope.refl (s : State) : RunEnvelope s s :=
  ⟨rfl, rfl, rfl, ⟨rfl, rfl, rfl⟩, ⟨rfl, rfl, rfl⟩, rfl, rfl, rfl, rfl, rfl, rfl⟩

/-- A callback acts on the music register pack only, an access on RAM, and a fault on the sequencer and the ghost flag
(R225, R227 to R230, D18). -/
theorem IsArmRow.exec_envelope {i : Instr} {s t : State} (hi : IsArmRow i) (h : exec i s = .next t) :
    RunEnvelope s t := by
  cases hi with
  | setnote v f => obtain ⟨k, -, rfl⟩ := onVoice_next h; exact { RunEnvelope.refl s with }
  | resetwave v => obtain ⟨k, -, rfl⟩ := onVoice_next h; exact { RunEnvelope.refl s with }
  | getwaveptr v => obtain ⟨k, -, rfl⟩ := onVoice_next h; exact { RunEnvelope.refl s with }
  | setwavesize v size => obtain ⟨k, -, rfl⟩ := onVoice_next h; exact { RunEnvelope.refl s with }
  | armramread x =>
    obtain ⟨k, -, rfl⟩ | ⟨-, rfl⟩ := execArmramread_next h
    · exact { RunEnvelope.refl s with }
    · exact { RunEnvelope.refl s with }
  | armromread x =>
    obtain ⟨k, -, rfl⟩ | ⟨-, rfl⟩ := execArmromread_next h
    · exact { RunEnvelope.refl s with }
    · exact { RunEnvelope.refl s with }
  | armramwrite x val =>
    obtain ⟨k, -, rfl⟩ | ⟨-, rfl⟩ := execArmramwrite_next h
    · exact { RunEnvelope.refl s with }
    · exact { RunEnvelope.refl s with }

/-- The envelope of a whole step: the ARM's queue and the draw number lie outside it. -/
theorem step_running_envelope {s t : State} {budget : Int} (hseq : s.sequencer = .running budget)
    (h : step s = .next t) : RunEnvelope s t := by
  obtain ⟨rest, ⟨faulted, rfl⟩ | ⟨armState, rfl⟩ | ⟨i, hi, hexec⟩⟩ := step_running_next hseq h
  · exact { RunEnvelope.refl s with }
  · exact { RunEnvelope.refl s with }
  · exact { hi.exec_envelope hexec with }

/-- Settles O5, from the envelope of each way a run can step. -/
theorem armRunStaysInItsEnvelope : Obligations.ArmRunStaysInItsEnvelope := by
  intro s t budget hseq hstep
  have henv := step_running_envelope hseq hstep
  exact ⟨henv.image, henv.currentBank, henv.mode, henv.latches, henv.clock, henv.armCycles, henv.bankLocked,
    henv.ramInit, henv.oscArith, henv.trapFatal, henv.hostQueue⟩

end Sys2Proof.Machine
end

section
/-! ### The ARM's accesses inside its two regions (R64, R225) -/

namespace Sys2Proof.Machine

/-- RAM byte `k` stands at ARM address `0x40000000 + k` (R64). -/
theorem armRamOffset?_ofNat {k : Nat} (h : k < 8192) : armRamOffset? (BitVec.ofNat 32 (0x40000000 + k)) = some k := by
  have haddr : (BitVec.ofNat 32 (0x40000000 + k)).toNat = 0x40000000 + k := by
    rw [BitVec.toNat_ofNat]
    omega
  rw [armRamOffset?_of_mem (by omega), haddr, Nat.add_sub_cancel_left]

/-- Image byte `k` stands at ARM address `k` (R64). -/
theorem armRomOffset?_ofNat {k : Nat} (h : k < 0x8000) : armRomOffset? (BitVec.ofNat 32 k) = some k := by
  have haddr : (BitVec.ofNat 32 k).toNat = k := by
    rw [BitVec.toNat_ofNat]
    omega
  rw [armRomOffset?_of_lt (by omega), haddr]

theorem exec_armramread_of_some {x : Word32} {k : Nat} (s : State) (h : armRamOffset? x = some k) :
    exec (.armramread x) s = .next (answer (.byte (readByte s.ram k)) s) := by
  change execArmramread x s = _
  rw [execArmramread, h]

theorem exec_armromread_of_some {x : Word32} {k : Nat} (s : State) (h : armRomOffset? x = some k) :
    exec (.armromread x) s = .next (answer (.byte (readByte s.image k)) s) := by
  change execArmromread x s = _
  rw [execArmromread, h]

theorem exec_armramwrite_of_some {x : Word32} {k : Nat} (val : Byte) (s : State) (h : armRamOffset? x = some k) :
    exec (.armramwrite x val) s = .next (answer .nothing { s with ram := writeByte s.ram k val }) := by
  change execArmramwrite x val s = _
  rw [execArmramwrite, h]

/-- Settles O36: each address has its offset, and the write is a store of one byte. -/
theorem armReadsAndWritesItsTwoRegions : Obligations.ArmReadsAndWritesItsTwoRegions := by
  refine ⟨fun k s hk => ?ramRead, fun k s hk => ?romRead, fun k val s hk => ?ramWrite⟩
  case ramRead => exact exec_armramread_of_some s (armRamOffset?_ofNat hk)
  case romRead => exact exec_armromread_of_some s (armRomOffset?_ofNat hk)
  case ramWrite =>
    exact ⟨_, exec_armramwrite_of_some val s (armRamOffset?_ofNat hk), rfl, readByte_writeByte_same s.ram k val,
      fun _ hj => readByte_writeByte_other s.ram val hj⟩

end Sys2Proof.Machine
end

section
/-! ### The callbacks (R227 to R231) -/

namespace Sys2Proof.Machine

/-- Replacing one voice's value leaves the other two. -/
theorem Voices.get_set {α : Type} (x : Voices α) (k j : Fin 3) (y : α) :
    (x.set k y).get j = if j = k then y else x.get j := by
  fin_cases k <;> fin_cases j <;> rfl

/-- A callback whose `a1` is the number of a voice acts on it. -/
theorem onVoice_ofNat (k : Fin 3) (f : Fin 3 → State) : onVoice (BitVec.ofNat 32 k.val) f = .next (f k) := by
  fin_cases k <;> rfl

/-- Settles O30, from the update of one voice. -/
theorem setNoteSetsOneFrequency : Obligations.SetNoteSetsOneFrequency := fun k f s =>
  ⟨_, onVoice_ofNat k _, rfl, fun j => s.musicFrequencies.get_set k j f⟩

/-- Settles O31, from the update of one voice. -/
theorem resetWaveClearsOneCounter : Obligations.ResetWaveClearsOneCounter := fun k s =>
  ⟨_, onVoice_ofNat k _, rfl, fun j => s.musicCounters.get_set k j 0⟩

/-- Settles O32: the voice's counter is answered as it stands. -/
theorem getWavePtrReturnsTheCounter : Obligations.GetWavePtrReturnsTheCounter := fun k _ => onVoice_ofNat k _

/-- Settles O33, from the update of one voice with the size narrowed to a byte. -/
theorem setWaveSizeKeepsTheLowByte : Obligations.SetWaveSizeKeepsTheLowByte := by
  intro k size s
  refine ⟨_, onVoice_ofNat k _, rfl, fun j => ?size⟩
  case size =>
    have hget := s.musicWaveformSize.get_set k j (size.setWidth 8)
    exact (congrArg BitVec.toNat hget).trans (by rw [apply_ite BitVec.toNat, BitVec.toNat_setWidth])

/-- Settles O34: each of the four acts on a voice, and a voice above 2 is none. -/
theorem callbackOnUnknownVoiceIsRefused : Obligations.CallbackOnUnknownVoiceIsRefused := by
  intro v x s hv i hi
  obtain rfl | rfl | rfl | rfl : i = .setnote v x ∨ i = .resetwave v ∨ i = .getwaveptr v ∨ i = .setwavesize v x := by
    simpa using hi
  all_goals exact onVoice_of_ge _ hv

end Sys2Proof.Machine
end

section
/-! ### A budget that does not fit (R222, D15) -/

namespace Sys2Proof.Machine

theorem armRun_of_not_fits {now : Cycles} {s : State}
    (h : armBudget now s < -2147483648 ∨ 2147483648 ≤ armBudget now s) :
    armRun now s = .refused (.budgetOutsideI32 (armBudget now s)) :=
  if_neg (by omega)

/-- Settles O28: all four forms are the start of a run, which refuses such a budget. -/
theorem callfnBudgetOutsideI32IsRefused : Obligations.CallfnBudgetOutsideI32IsRefused := by
  rintro now s budget rfl hout i hi
  exact (exec_runRequest s hi).trans (armRun_of_not_fits hout)

end Sys2Proof.Machine
end

section
/-! PROOFS, family 60_exceptions: the environment's writes to image and lock and its bank query (R163, R251, R252),
and that no access to the window is left without an answer (R240). -/

/-! ### PATCH, SETBANKLOCK and GETBANK (R163, R251, R252) -/

namespace Sys2Proof.Machine

/-- Settles O44: the lock is SETBANKLOCK's only write besides the answer, and GETBANK writes the answer alone. -/
theorem bankLockAndBankQuery : Obligations.BankLockAndBankQuery := ⟨fun _ _ => rfl, fun _ => rfl⟩

/-- The image byte that PATCH writes, by its image address (R14, R251). -/
theorem patchIndex_windowOffset (s : State) (addr : Word16) :
    patchIndex s (windowOffset addr) = 4096 + (s.currentBank.val * 4096 + addr.toNat % 4096) := by
  rw [patchIndex, progIndex, windowOffset_toNat]

theorem exec_patch_of_ge {addr : Word16} (val : Byte) (s : State) (h : 0x40 ≤ addr.toNat % 4096) :
    exec (.patch addr val) s = .next
      { s with
        image := writeByte s.image (4096 + (s.currentBank.val * 4096 + addr.toNat % 4096)) val
        result := .flag true } := by
  rw [← windowOffset_toNat] at h
  rw [← patchIndex_windowOffset]
  exact if_pos h

theorem exec_patch_of_lt {addr : Word16} (val : Byte) (s : State) (h : addr.toNat % 4096 < 0x40) :
    exec (.patch addr val) s = .next { s with result := .flag false } := by
  rw [← windowOffset_toNat] at h
  exact if_neg (not_le.mpr h)

/-- Settles O43, on either side of offset 0x40: above, the one byte written reads back and the others are as before. -/
theorem patchWritesTheCurrentBankFrom0x40Up : Obligations.PatchWritesTheCurrentBankFrom0x40Up := by
  intro addr val s
  by_cases haddr : 0x40 ≤ addr.toNat % 4096
  · refine ⟨_, exec_patch_of_ge val s haddr, ?_⟩
    rw [if_pos haddr]
    exact ⟨rfl, readByte_writeByte_same _ _ val, fun k hk => readByte_writeByte_other _ val hk⟩
  · refine ⟨_, exec_patch_of_lt val s (not_le.mp haddr), ?_⟩
    rw [if_neg haddr]

end Sys2Proof.Machine
end

section
/-! ### Every Peek and every Poke that starts no run is answered at once (R240) -/

namespace Sys2Proof.Machine

/-- The answer is a byte, and the host is paused exactly if it was. -/
structure AnswersByte (s t : State) : Prop where
  byte : ∃ b, t.result = .byte b
  sequencer : t.sequencer = s.sequencer

theorem answer_byte_answersByte (b : Byte) {s t : State} (h : t.sequencer = s.sequencer) :
    AnswersByte s (answer (.byte b) t) := ⟨⟨b, rfl⟩, h⟩

/-- A captured operand answers a stream's byte or a sample (R177). -/
theorem treeCapture_answersByte (rom : Byte) (now : Cycles) (s : State) : AnswersByte s (treeCapture rom now s) := by
  unfold treeCapture
  split_ifs
  · exact answer_byte_answersByte _ rfl
  · exact answer_byte_answersByte _ (updateAudio_sequencer now s)

/-- Steps 6 to 9 answer the byte read before step 7 (R170). -/
theorem treeTail_answersByte (a : Offset) (rom : Byte) (s : State) :
    AnswersByte s (treeTail a rom (clearJump s)) := by
  rw [treeTail_clearJump_eq]
  exact ⟨⟨rom, rfl⟩, rfl⟩

/-- Every branch of the read tree ends in a byte (R190). -/
theorem peekTree_answersByte (addr : Word16) (now : Cycles) (s : State) : AnswersByte s (peekTree addr now s) := by
  cases hlock : s.bankLocked with
  | true =>
    rw [peekTree_of_locked addr now hlock]
    exact answer_byte_answersByte _ rfl
  | false =>
  cases hcont : continuationAt s (windowOffset addr) with
  | true =>
    rw [peekTree_of_continuation now hlock hcont]
    exact answer_byte_answersByte _ rfl
  | false =>
  cases hjump : fastFetchOn s && jumpPatternAt s (windowOffset addr) with
  | true =>
    obtain ⟨hfast, hpattern⟩ := (Bool.and_eq_true _ _).mp hjump
    rw [peekTree_of_jumpPattern now hlock hcont hfast hpattern]
    exact answer_byte_answersByte _ rfl
  | false =>
    rw [peekTree_of_no_jump now hlock hcont hjump]
    split_ifs
    · exact { treeCapture_answersByte _ now (clearLda (clearJump s)) with }
    · exact treeTail_answersByte _ _ s

/-- A Poke's row always has a next state, and starts no run unless it is CALLFN with 254 or 255 (R205, R220). -/
theorem exec_pokeRow_completes {a : Offset} {val : Byte} (now : Cycles) (s : State)
    (h : a ≠ 0xFF3 ∨ (val ≠ 254 ∧ val ≠ 255)) :
    ∃ t, exec (pokeRow a val now) s = .next t ∧ t.sequencer = s.sequencer := by
  unfold pokeRow decodeHostWrite
  split_ifs with hcall
  · obtain ⟨h254, h255⟩ := h.resolve_left (not_not_intro hcall)
    rw [decodeCallfnArg_of_ne now h254 h255]
    exact ⟨_, rfl, rfl⟩
  · exact ⟨_, rfl, rfl⟩
  · exact ⟨_, rfl, rfl⟩
  · exact ⟨_, rfl, rfl⟩
  · split
    · exact ⟨_, exec_bankWriteRow _ val s, bank_sequencer _ s⟩
    · exact ⟨_, rfl, rfl⟩

/-- Settles O47: a Peek by the branches of the read tree, a Poke by the row it decodes to. -/
theorem everyPeekAndPokeAnswers : Obligations.EveryPeekAndPokeAnswers := by
  refine ⟨fun s addr now rest hnext => ?peek, fun s addr val now rest hnext hnoRun => ?poke⟩
  case peek =>
    obtain ⟨⟨b, hb⟩, hseq⟩ := peekTree_answersByte addr now (takeHost rest s)
    exact ⟨_, b, peekStepIsTheReadTree s addr now rest hnext, hb, hseq.trans hnext.1⟩
  case poke =>
    obtain ⟨t, hexec, hseq⟩ := exec_pokeRow_completes now (takeHost rest s) hnoRun
    exact ⟨t, (step_hostRow hnext).trans hexec, hseq.trans hnext.1⟩

end Sys2Proof.Machine
end

section
/-! PROOFS, family 70_reset_and_hazards: what `Reset` assigns and the state the host then reads (R271 to R273), the
shift of `CyclesReset` and what it leaves of the later differences (R276). -/

/-! ### RESET (R271 to R273) -/

namespace Sys2Proof.Machine

theorem exec_reset (now : Cycles) (s : State) : exec (.reset now) s = .next (answer .nothing (resetDevice now s)) := rfl

/-- Settles O39: the record is R271's list of assignments, and each part of RAM reads as its source. -/
theorem resetLoadsTemplateAndControlRegisters : Obligations.ResetLoadsTemplateAndControlRegisters := fun now s =>
  ⟨_, exec_reset now s, rfl, fun _ hk => readByte_resetRam_driver s.image s.ramInit hk,
    fun _ hk => readByte_resetRam_display s.image s.ramInit hk⟩

/-- A table word after a reset is the driver template's (R271, R24). -/
theorem readLE32_resetRam_driver (image ramInit : Memory) {o : Nat} (h : o + 4 ≤ Config.driverSize) :
    readLE32 (resetRam image ramInit) o = readLE32 image o :=
  readLE32_congr fun _ _ hj => readByte_resetRam_driver image ramInit (by omega)

/-- In mode 0xFF fast-fetch is off and audio is additive (R13, R273). -/
theorem predicates_of_mode_FF {s : State} (h : s.mode = 0xFF) : fastFetchOn s = false ∧ digitalAudioOn s = false := by
  simp [fastFetchOn, digitalAudioOn, h]

/-- With fast-fetch off and no jump pending, an unlocked Peek is decoded by its offset alone (R184). -/
theorem peekRow_of_fastFetch_off {s : State} (a : Offset) (now : Cycles) (hlock : s.bankLocked = false)
    (hcont : continuationAt s a = false) (hfast : fastFetchOn s = false) : peekRow s a now = decodeHostRead a := by
  simp [peekRow, hlock, hcont, hfast]

/-- Settles O40: registers from the assignments, table words from the template, and the Peek because the mode switches
fast-fetch off and no jump is pending. -/
theorem afterResetModeBankAndStreamsAreInitial : Obligations.AfterResetModeBankAndStreamsAreInitial := by
  intro now s t hexec
  obtain rfl : answer .nothing (resetDevice now s) = t := Host.Outcome.next.inj hexec
  obtain ⟨hfast, hdigital⟩ := predicates_of_mode_FF (s := answer .nothing (resetDevice now s)) rfl
  refine ⟨fun v => ?sizes, rfl, rfl, hfast, hdigital, fun i => ⟨?pointer, ?increment⟩, fun j => ?waveform,
    fun addr later hlock => ?peek⟩
  case sizes => fin_cases v <;> rfl
  case pointer =>
    have hlt := ptrOffset_lt i
    exact readLE32_resetRam_driver s.image s.ramInit (by unfold Config.driverSize; omega)
  case increment =>
    exact readLE32_resetRam_driver s.image s.ramInit (by unfold incOffset Config.incTable Config.driverSize; omega)
  case waveform => exact readLE32_resetRam_driver s.image s.ramInit (by unfold Config.driverSize; omega)
  case peek =>
    rw [decode_hostPacket, hostRow, peekRow_of_fastFetch_off _ later hlock (continuationAt_of_idle _ rfl) hfast]

end Sys2Proof.Machine
end

section
/-! ### CYCLESRESET (R276) -/

namespace Sys2Proof.Machine

/-- A rebased baseline is the difference where that fits an `i64` (R276). -/
theorem toInt_rebase {c offset : Cycles} (op site : Nat) (hlo : -9223372036854775808 ≤ c.toInt - offset.toInt)
    (hhi : c.toInt - offset.toInt < 9223372036854775808) :
    (rebase c offset op site).toInt = c.toInt - offset.toInt := by
  rw [rebase, if_pos ⟨hlo, hhi⟩]
  exact BitVec.toInt_ofInt_eq_self (by decide) hlo hhi

/-- The elapsed cycles of a rebased `now` over a rebased baseline are those of the old ones (R141, R222, R276). -/
theorem toInt_sub_toInt_rebase {now now' c offset : Cycles} (op site : Nat)
    (hnow : now'.toInt = now.toInt - offset.toInt) (hlo : -9223372036854775808 ≤ c.toInt - offset.toInt)
    (hhi : c.toInt - offset.toInt < 9223372036854775808) :
    now'.toInt - (rebase c offset op site).toInt = now.toInt - c.toInt := by
  rw [toInt_rebase op site hlo hhi]
  omega

/-- The state with its two baselines replaced and nothing answered: all that CYCLESRESET writes. -/
def withBaselines (audio arm : Cycles) (s : State) : State :=
  { s with audioCycles := audio, armCycles := arm, result := .nothing }

theorem exec_cyclesreset (offset : Cycles) (s : State) : exec (.cyclesreset offset) s =
    .next (withBaselines (rebase s.audioCycles offset s.freeCount 0) (rebase s.armCycles offset s.freeCount 1) s) := rfl

/-- Settles O41: the two baselines are the only fields written besides the answer. -/
theorem cyclesResetShiftsBothBaselines : Obligations.CyclesResetShiftsBothBaselines := by
  refine fun offset s => ⟨_, exec_cyclesreset offset s, rfl, ?audio, ?arm⟩
  case audio =>
    rintro r rfl hlo hhi
    exact toInt_rebase s.freeCount 0 hlo hhi
  case arm =>
    rintro r rfl hlo hhi
    exact toInt_rebase s.freeCount 1 hlo hhi

/-! #### The audio does not see the baselines themselves (R140 to R150) -/

theorem advanceCounters_withBaselines (whole : Int) (audio arm : Cycles) (s : State) :
    advanceCounters whole (withBaselines audio arm s) = withBaselines audio arm (advanceCounters whole s) := by
  unfold advanceCounters
  split <;> rfl

theorem sample_withBaselines (audio arm : Cycles) (s : State) : sample (withBaselines audio arm s) = sample s := rfl

section
variable {now now' audio : Cycles} {s : State} (arm : Cycles)

/-- The update reads its baseline through the elapsed cycles only (R141). -/
theorem updateAudio_withBaselines (hdelta : now'.toInt - audio.toInt = audioDelta now s) :
    updateAudio now' (withBaselines audio arm s) = withBaselines now' arm (updateAudio now s) := by
  have hdelta' : audioDelta now' (withBaselines audio arm s) = audioDelta now s := hdelta
  cases hosc : s.oscArith with
  | rational =>
    rw [updateAudio_of_rational now' (s := withBaselines audio arm s) hosc, updateAudio_of_rational now hosc, hdelta',
      ← advanceCounters_withBaselines]
    rfl
  | f64Reference =>
    rw [updateAudio_of_f64Reference now' (s := withBaselines audio arm s) hosc, updateAudio_of_f64Reference now hosc,
      hdelta', ← advanceCounters_withBaselines]
    rfl

/-- AMPLITUDE after a change of baselines that keeps the elapsed cycles: the same counters, residues and sample, an open
mixer term included, which both draw under one number (R141, R145). -/
theorem exec_amplitude_withBaselines (hdelta : now'.toInt - audio.toInt = audioDelta now s) :
    exec (.amplitude now') (withBaselines audio arm s) =
      .next (answer (.byte (sample (amplitudeUpdate now s))) (withBaselines now' arm (amplitudeUpdate now s))) := by
  have hupdate : amplitudeUpdate now' (withBaselines audio arm s) = withBaselines now' arm (amplitudeUpdate now s) :=
    updateAudio_withBaselines (s := clearLda (clearJump s)) arm hdelta
  rw [exec_amplitude, hupdate, sample_withBaselines]

end

/-! #### Nor does the start of a run (R222) -/

/-- The forms of the request for a run, paired over two times, all start a run (R205, R220, R221). -/
theorem exec_runRequest_pair {i i' : Instr} {now now' : Cycles}
    (h : (i, i') ∈ [(Instr.callfnRun254 now, Instr.callfnRun254 now'),
      (Instr.callfnRun255 now, Instr.callfnRun255 now'), (Instr.callfn 254 now, Instr.callfn 254 now'),
      (Instr.callfn 255 now, Instr.callfn 255 now')]) :
    (∀ s, exec i s = armRun now s) ∧ ∀ s, exec i' s = armRun now' s := by
  simp only [List.mem_cons, List.not_mem_nil, or_false, Prod.mk.injEq] at h
  rcases h with ⟨rfl, rfl⟩ | ⟨rfl, rfl⟩ | ⟨rfl, rfl⟩ | ⟨rfl, rfl⟩ <;>
    exact ⟨fun s => exec_runRequest s (by simp), fun s => exec_runRequest s (by simp)⟩

/-- A run that starts is started with the same budget wherever the elapsed cycles are the same (R222, R223). -/
theorem armRun_of_sameBudget {now now' : Cycles} {s s' u : State} (hbudget : armBudget now' s' = armBudget now s)
    (h : armRun now s = .next u) : ∃ u', armRun now' s' = .next u' ∧ u'.sequencer = u.sequencer := by
  obtain ⟨hlo, hhi, rfl⟩ := armRun_next h
  rw [← hbudget] at hlo hhi
  exact ⟨_, armRun_of_fits hlo hhi, congrArg Sequencer.running hbudget⟩

/-- Settles O42: both later operations see a baseline through the elapsed cycles only, and those are the same. -/
theorem cyclesResetKeepsLaterDeltas : Obligations.CyclesResetKeepsLaterDeltas := by
  intro offset now now' s s1 t t1 hnow hreset hold hnew
  obtain rfl := Host.Outcome.next.inj ((exec_cyclesreset offset s).symm.trans hreset)
  refine ⟨fun hlo hhi => ?audio, fun hlo hhi => ?arm⟩
  case audio =>
    have hdelta := toInt_sub_toInt_rebase s.freeCount 0 hnow hlo hhi
    obtain rfl := Host.Outcome.next.inj ((exec_amplitude now s).symm.trans hold)
    obtain rfl := Host.Outcome.next.inj ((exec_amplitude_withBaselines _ hdelta).symm.trans hnew)
    exact ⟨rfl, rfl, rfl, fun _ => rfl⟩
  case arm =>
    have hbudget := toInt_sub_toInt_rebase s.freeCount 1 hnow hlo hhi
    refine ⟨hbudget, fun i i' hpair u hrun => ?_⟩
    obtain ⟨hstart, hstart'⟩ := exec_runRequest_pair hpair
    rw [hstart] at hrun
    rw [hstart']
    exact armRun_of_sameBudget hbudget hrun

end Sys2Proof.Machine
end
